-- ==== Sys2Proof/Word.lean ====
section
/-! DEFINITION. The word types of the machine (spec/00_scope.md R5, R6, R7): a byte of data, a 16-bit word
(an instruction word, a data address, a program word address, a pointer pair, the stack pointer), and the
operand fields of the instruction formats (spec/30_encoding.md R102, R121). -/

namespace Sys2Proof

/-- An 8-bit value: a general register, a data memory cell, an I/O register (R5, `XLEN` = 8). -/
abbrev Byte := BitVec 8

/-- A 16-bit value: an instruction word (R100), a data address (R60), a program word address (R25 with
`PC_BITS` at most 16), a pointer pair (R23), the stack pointer (R31). -/
abbrev Word := BitVec 16

/-- A general register number, R0 to R31: the 5-bit `d` and `r` fields of R103, R105, R109 to R112. -/
abbrev Reg := BitVec 5

/-- The 4-bit register field of format RI (R104): it names R16 to R31 only (R22). -/
abbrev HighReg := BitVec 4

/-- An I/O address, 0 to 63: the `A` field of R112. -/
abbrev IoAddr := BitVec 6

end Sys2Proof
end

