-- ==== Sys2Proof/Machine/Flags.lean ====
section
/-! DEFINITION. The status register's flags (spec/10_state.md R28) and the five flag functions R40 to R44, written as the
spec's Boolean equations on bits.  Each function takes SREG and answers the new SREG: the flags it names take their new
values, every other flag keeps its own. -/

namespace Sys2Proof.Machine

/-- C, bit 0 (R28). -/
def flagC (v : Byte) : Bool := v.getLsbD 0
/-- Z, bit 1 (R28). -/
def flagZ (v : Byte) : Bool := v.getLsbD 1
/-- N, bit 2 (R28). -/
def flagN (v : Byte) : Bool := v.getLsbD 2
/-- V, bit 3 (R28). -/
def flagV (v : Byte) : Bool := v.getLsbD 3
/-- S, bit 4 (R28). -/
def flagS (v : Byte) : Bool := v.getLsbD 4
/-- H, bit 5 (R28). -/
def flagH (v : Byte) : Bool := v.getLsbD 5
/-- T, bit 6 (R28). -/
def flagT (v : Byte) : Bool := v.getLsbD 6
/-- I, bit 7 (R28). -/
def flagI (v : Byte) : Bool := v.getLsbD 7

/-- The eight flags as one byte, `7:I 6:T 5:H 4:S 3:V 2:N 1:Z 0:C` (R28). -/
def packSreg (i t h s v n z c : Bool) : Byte :=
  BitVec.ofBool i ++ (BitVec.ofBool t ++ (BitVec.ofBool h ++ (BitVec.ofBool s ++
    (BitVec.ofBool v ++ (BitVec.ofBool n ++ (BitVec.ofBool z ++ BitVec.ofBool c))))))

/-- SREG with H, S, V, N, Z, C replaced. -/
def withHSVNZC (sreg : Byte) (h s v n z c : Bool) : Byte :=
  packSreg (flagI sreg) (flagT sreg) h s v n z c

/-- SREG with S, V, N, Z, C replaced. -/
def withSVNZC (sreg : Byte) (s v n z c : Bool) : Byte :=
  packSreg (flagI sreg) (flagT sreg) (flagH sreg) s v n z c

/-- SREG with S, V, N, Z replaced. -/
def withSVNZ (sreg : Byte) (s v n z : Bool) : Byte :=
  packSreg (flagI sreg) (flagT sreg) (flagH sreg) s v n z (flagC sreg)

/-- SREG with C replaced. -/
def withC (sreg : Byte) (c : Bool) : Byte :=
  packSreg (flagI sreg) (flagT sreg) (flagH sreg) (flagS sreg) (flagV sreg) (flagN sreg) (flagZ sreg) c

/-- SREG with I replaced. -/
def withI (sreg : Byte) (i : Bool) : Byte :=
  packSreg i (flagT sreg) (flagH sreg) (flagS sreg) (flagV sreg) (flagN sreg) (flagZ sreg) (flagC sreg)

/-- One bit as a byte, for a carry-in (R158). -/
def carryByte (c : Bool) : Byte := if c then 1 else 0

/-- The result of `flags_add`: `(a + b + c) mod 256` (R40). -/
def addResult (a b : Byte) (c : Bool) : Byte := a + b + carryByte c

/-- `flags_add(a, b, c)` (R40). -/
def flagsAdd (sreg a b : Byte) (c : Bool) : Byte :=
  let R := addResult a b c
  let a3 := a.getLsbD 3
  let b3 := b.getLsbD 3
  let R3 := R.getLsbD 3
  let a7 := a.getLsbD 7
  let b7 := b.getLsbD 7
  let R7 := R.getLsbD 7
  let h := (a3 && b3) || (b3 && !R3) || (!R3 && a3)
  let cy := (a7 && b7) || (b7 && !R7) || (!R7 && a7)
  let v := (a7 && b7 && !R7) || (!a7 && !b7 && R7)
  withHSVNZC sreg h (R7 ^^ v) v R7 (R == 0) cy

/-- The result of `flags_sub`: `(a - b - c) mod 256` (R41). -/
def subResult (a b : Byte) (c : Bool) : Byte := a - b - carryByte c

/-- `flags_sub(a, b, c, keepZ)` (R41). -/
def flagsSub (sreg a b : Byte) (c keepZ : Bool) : Byte :=
  let R := subResult a b c
  let a3 := a.getLsbD 3
  let b3 := b.getLsbD 3
  let R3 := R.getLsbD 3
  let a7 := a.getLsbD 7
  let b7 := b.getLsbD 7
  let R7 := R.getLsbD 7
  let h := (!a3 && b3) || (b3 && R3) || (R3 && !a3)
  let cy := (!a7 && b7) || (b7 && R7) || (R7 && !a7)
  let v := (a7 && !b7 && !R7) || (!a7 && b7 && R7)
  let z := (R == 0) && (!keepZ || flagZ sreg)
  withHSVNZC sreg h (R7 ^^ v) v R7 z cy

/-- `flags_logic(R)`: V is cleared, S is N (R42). -/
def flagsLogic (sreg R : Byte) : Byte :=
  withSVNZ sreg (R.getLsbD 7 ^^ false) false (R.getLsbD 7) (R == 0)

/-- `flags_shr(a, R)`: C is the bit shifted out, V is N xor C (R43). -/
def flagsShr (sreg a R : Byte) : Byte :=
  let c := a.getLsbD 0
  let n := R.getLsbD 7
  let v := n ^^ c
  withSVNZC sreg (n ^^ v) v n (R == 0) c

/-- `flags_incdec(R, vcond)` (R44). -/
def flagsIncDec (sreg R : Byte) (vcond : Bool) : Byte :=
  withSVNZ sreg (R.getLsbD 7 ^^ vcond) vcond (R.getLsbD 7) (R == 0)

end Sys2Proof.Machine
end

