-- ==== Sys2Proof/Config.lean ====
section
/-! DEFINITION. What an implementation fixes (the parameters of spec/00_scope.md R5 that the spec leaves open) and
the free values, which nothing fixes.  A configuration is plain data given with the launch (R9); it stands in `State` so
that a statement about every state is a statement about every configuration.  Assumption log: notes/assumptions/1.md to
4.md. -/

namespace Sys2Proof

/-- One entry of the parameter `PORTS` (R5, R34): a port letter and the I/O addresses of its three registers. -/
structure PortMap where
  letter : Char
  pinIo : IoAddr
  ddrIo : IoAddr
  portIo : IoAddr
deriving DecidableEq, Repr

/-- One entry of the parameter `IRQ` (R304): a name, a vector (a program word address) and a priority rank.  The smaller
rank is the higher priority (DESIGN CHOICE, notes/assumptions/13.md). -/
structure IrqSource where
  name : String
  vector : Word
  priority : Nat
deriving DecidableEq, Repr

/-- The parameters of R5 that the spec leaves open (`92_eei_decisions.md`, "Parameters left OPEN"). -/
structure Config where
  /-- `PC_BITS`, at most 16 (R25). -/
  pcBits : Nat
  /-- `FLASH_WORDS`; `FLASHEND` is `flashWords - 1` (R66). -/
  flashWords : Nat
  /-- `SRAM_START`, the first data address of RAM (R61). -/
  sramStart : Nat
  /-- `RAMEND`, the last data address of RAM (R61). -/
  ramEnd : Nat
  /-- `SREG_IO` (R30). -/
  sregIo : IoAddr
  /-- `SPH_IO` (R32). -/
  sphIo : IoAddr
  /-- `SPL_IO` (R32). -/
  splIo : IoAddr
  /-- `PORTS` (R34). -/
  ports : List PortMap
  /-- `IRQ` (R304), default empty. -/
  irq : List IrqSource
deriving DecidableEq, Repr

/-- `IO_BASE` (R5): the data address of I/O address 0. -/
abbrev Config.ioBase : Nat := 0x20

/-- `IO_SIZE` (R5): the number of I/O addresses. -/
abbrev Config.ioSize : Nat := 64

/-- `RESET_PC` (R5, R37). -/
abbrev Config.resetPc : Word := 0x0000

/-- Every I/O address a configuration gives a register to. -/
def Config.ioAddresses (c : Config) : List IoAddr :=
  [c.sregIo, c.sphIo, c.splIo] ++ c.ports.flatMap (fun p => [p.pinIo, p.ddrIo, p.portIo])

/-- The constraints of the table "Parameters left OPEN": sizes in range, I/O addresses distinct, vectors inside the
flash, no two sources of one rank. -/
def Config.wf (c : Config) : Bool :=
  c.pcBits ≤ 16 && 1 ≤ c.flashWords && c.flashWords ≤ 2 ^ c.pcBits &&
    0x60 ≤ c.sramStart && c.sramStart ≤ c.ramEnd && c.ramEnd ≤ 0xFFFF &&
    decide c.ioAddresses.Nodup &&
    c.irq.all (fun x => x.vector.toNat < c.flashWords) &&
    decide (c.irq.map (·.priority)).Nodup

/-- The test configuration of R5, the spec's own example (the ATmega32 layout). -/
def Config.testConfiguration : Config where
  pcBits := 16
  flashWords := 0x4000
  sramStart := 0x60
  ramEnd := 0x85F
  sregIo := 0x3F
  sphIo := 0x3E
  splIo := 0x3D
  ports :=
    [{ letter := 'A', pinIo := 0x19, ddrIo := 0x1A, portIo := 0x1B },
     { letter := 'B', pinIo := 0x16, ddrIo := 0x17, portIo := 0x18 },
     { letter := 'C', pinIo := 0x13, ddrIo := 0x14, portIo := 0x15 },
     { letter := 'D', pinIo := 0x10, ddrIo := 0x11, portIo := 0x12 }]
  irq := []

/-- FREE VALUE: the levels at the eight pins of a port at the `n`-th draw of a run (R34: `draw(8)`, a fresh draw at
every read of PINx).  No body: a statement holds for every value.  Log: notes/assumptions/3.md. -/
opaque Config.pinLevels : Nat → Byte

/-- FREE VALUE: what a load of a RAM byte that nothing has written returns at the `n`-th draw of a run (R24, R37, D22:
"a fresh `draw(8)` per read").  No body: a statement holds for every value.  Log: notes/assumptions/4.md. -/
opaque Config.unwrittenByte : Nat → Byte

end Sys2Proof
end

