-- ==== Sys2Proof/Machine/State.lean ====
section
/-! DEFINITION. The state of the machine (spec/10_state.md, its opening list and R20 to R37), the reasons a step can stop
(spec/00_scope.md R10, spec/60_exceptions.md R301), and the state after reset (R37, R341).  Program memory is constant
during a run (R66) and stands here because it is given with the launch (R9), like the configuration. -/

namespace Sys2Proof.Machine

/-- A sparse memory: (address, byte) pairs in one canonical form, addresses strictly rising and no entry equal to what an
unlisted address reads as (`Memory.wf` in Ops.lean). -/
abbrev Memory := List Host.Cell

/-- Why a step faults: an access to an address the spec says does not exist.  The spec's word is "refused" (R10): the
hardware has no trap for it (R300), and no state follows.  Log: notes/assumptions/8.md. -/
inductive Fault where
  /-- Raised by a data access (load, store, push, pop, call, return, interrupt entry) to an address that is neither a
  register, nor in the I/O space, nor RAM (R61, R62).  Safe: the hardware goes on with junk (R301). -/
  | noMemory (a : Word)
  /-- Raised by an instruction fetch, first or second word, above `FLASHEND` (R27, R68).  Safe: the hardware wraps or
  reads erased flash (R301). -/
  | fetchOutsideFlash (w : Word)
  /-- Raised by LPM when the word of its byte address lies above `FLASHEND` (R67, D28).  Safe: the hardware ignores the
  address bits (R301). -/
  | lpmOutsideFlash (b : Word)
deriving DecidableEq, Repr

/-- Why a step is refused: the spec gives the situation no meaning (R10). -/
inductive Refusal where
  /-- Raised by `exec` alone, for an instruction that has no meaning yet.  Safe. -/
  | notModelled (mnemonic : String)
  /-- Raised by the fetch for a word that no row of R115 matches (R118).  Safe: the hardware has no trap for it. -/
  | wordNotInExcerpt (w : Word)
  /-- Raised by LDS with a register below R16 (R22, R222).  Safe: the hardware executes it. -/
  | ldsLowRegister (d : Reg)
  /-- Raised by JMP and CALL with a target of `2^PC_BITS` or more (R108, R182, R184).  Safe: the hardware drops bits. -/
  | jumpTargetOutsidePcBits (k : BitVec 22)
  /-- Raised by a post-increment or pre-decrement form whose data register is half of its pointer (R250, R290).  Safe: the
  result is undefined on the hardware. -/
  | pointerRegisterUpdated (d : Reg)
  /-- Raised by a read or a write of an I/O address the spec gives no register (R65).  Safe: a device may stand there. -/
  | unspecifiedIo (a : IoAddr)
  /-- Raised by a push, a pop, a call, a return and an interrupt entry whose stack byte is a register or an I/O address
  (R70, R301, R306: the stack is in RAM; log: notes/assumptions/25.md).  Safe: the hardware goes on there. -/
  | stackOutsideRam (a : Word)
  /-- Raised by a write of a PINx register (R34, R64).  Safe: devices differ. -/
  | pinWrite (a : IoAddr)
deriving DecidableEq, Repr

/-- The whole state. -/
structure State where
  /-- The parameters of the launch (R5, R9); no step changes them. -/
  cfg : Config
  /-- The general registers R0 to R31 (R20). -/
  regs : Vector Byte 32
  /-- The program counter, a word address below `2^PC_BITS` (R25, R27). -/
  pc : Word
  /-- The status register, bits 7..0 = I T H S V N Z C (R28). -/
  sreg : Byte
  /-- The stack pointer SPH:SPL (R31). -/
  sp : Word
  /-- The RAM bytes that hold a value, by data address `SRAM_START`..`RAMEND` (R62). -/
  ram : Memory
  /-- The DDRx and PORTx registers, by I/O address (R34); an unlisted one holds its reset value 0x00 (R37). -/
  latches : Memory
  /-- Program memory by byte address (R66, R67); an unlisted byte is erased flash, 0xFF. -/
  flash : Memory
  /-- The hidden bit `irq_hold` (R36). -/
  irqHold : Bool
  /-- INPUT, the environment's: the sets `req` it presents at the coming step boundaries (R304), the next one first, each a
  list of positions in `cfg.irq`; after the last one the sets are empty. -/
  requests : List (List Nat)
  /-- The MODEL's own: how many free values the run has drawn (R10, `draw`). -/
  draws : Nat
deriving DecidableEq, Repr

/-- The outcome of an operation that also answers a value. -/
abbrev Result (α : Type) := Host.Outcome α Fault Refusal

/-- What every general register holds right after reset: DESIGN CHOICE, the spec gives no value and says it must not be 0
(R24, R37, D22).  Log: notes/assumptions/5.md (unsafe). -/
abbrev resetRegister : Byte := 0x01

/-- What SP holds right after reset: DESIGN CHOICE, the spec gives no value (R37, D12).  Log: notes/assumptions/6.md
(unsafe). -/
abbrev resetSp : Word := 0x0101

/-- The machine right after reset (R37, R341), in the test configuration of R5 (log: notes/assumptions/1.md). -/
def State.reset : State where
  cfg := Config.testConfiguration
  regs := Vector.replicate 32 resetRegister
  pc := Config.resetPc
  sreg := 0x00
  sp := resetSp
  ram := []
  latches := []
  flash := []
  irqHold := false
  requests := []
  draws := 0

end Sys2Proof.Machine
end

