-- ==== Sys2Proof/Machine/Ops.lean ====
section
/-! DEFINITION. The named operations over registers and memory: sparse memories, general registers and pointer pairs
(spec/10_state.md), the I/O space, data memory, program memory and the stack (spec/20_memory.md), the program counter, and
the taking of an interrupt (spec/60_exceptions.md; the hardware has no synchronous exception, R300) with the return from
one. -/

namespace Sys2Proof.Machine

/-! ## Sequencing -/

/-- Run `f` on what `x` answers; a fault or a refusal ends the step (R10: a refused step yields nothing). -/
def andThen {α β : Type} (x : Result α) (f : α → Result β) : Result β :=
  match x with
  | .next a => f a
  | .fault r => .fault r
  | .refused r => .refused r

/-! ## Sparse memories -/

/-- The byte listed at an address. -/
def Memory.lookup : Memory → Nat → Option Byte
  | [], _ => none
  | (b, v) :: m, a => if b = a then some v else Memory.lookup m a

/-- List a byte at an address, in the place that keeps addresses rising. -/
def Memory.insert : Memory → Nat → Byte → Memory
  | [], a, v => [(a, v)]
  | (b, w) :: m, a, v =>
    if a < b then (a, v) :: (b, w) :: m
    else if a = b then (a, v) :: m
    else (b, w) :: Memory.insert m a v

/-- Unlist an address. -/
def Memory.erase : Memory → Nat → Memory
  | [], _ => []
  | (b, w) :: m, a => if b = a then m else (b, w) :: Memory.erase m a

/-- Write a byte; `blank` is what an unlisted address reads as (`none`: no value). -/
def Memory.write (blank : Option Byte) (m : Memory) (a : Nat) (v : Byte) : Memory :=
  if blank = some v then Memory.erase m a else Memory.insert m a v

/-- The canonical form: addresses strictly rising, no entry equal to what an unlisted address reads as. -/
abbrev Memory.wf (blank : Option Byte) (m : Memory) : Prop :=
  m.Pairwise (fun x y => x.1 < y.1) ∧ ∀ x ∈ m, some x.2 ≠ blank

/-- What an unlisted RAM byte reads as: no value (R37, R62). -/
abbrev ramBlank : Option Byte := none

/-- What an unlisted DDRx or PORTx reads as: its reset value 0x00 (R37). -/
abbrev latchBlank : Byte := 0x00

/-- What an unlisted byte of program memory reads as: erased flash, 0xFF (R118; log: notes/assumptions/7.md). -/
abbrev flashBlank : Byte := 0xFF

/-! ## General registers and pointer pairs -/

/-- `R[d]` (R20). -/
def State.reg (s : State) (d : Reg) : Byte := s.regs[d.toNat]'d.isLt

/-- `R[d] <- v` (R20, R21). -/
def State.setReg (s : State) (d : Reg) (v : Byte) : State :=
  { s with regs := s.regs.set d.toNat v d.isLt }

/-- The register that a 4-bit field of format RI names: 16 + d (R22, R104). -/
def highReg (d : HighReg) : Reg := 1#1 ++ d

/-- The pointer pairs X, Y, Z (R23). -/
inductive Pointer where
  | x | y | z
deriving DecidableEq, Repr

/-- The lower-numbered register of a pair, its low byte: R26, R28, R30 (R23). -/
def Pointer.low : Pointer → Reg
  | .x => 26
  | .y => 28
  | .z => 30

/-- The higher-numbered register of a pair, its high byte: R27, R29, R31 (R23). -/
def Pointer.high : Pointer → Reg
  | .x => 27
  | .y => 29
  | .z => 31

/-- The 16-bit value of a pair, the higher-numbered register more significant (R23). -/
def State.pair (s : State) (p : Pointer) : Word := s.reg p.high ++ s.reg p.low

/-- Write a pair, `v[7:0]` to the lower-numbered register (R7, R23). -/
def State.setPair (s : State) (p : Pointer) (v : Word) : State :=
  (s.setReg p.low (v.extractLsb' 0 8)).setReg p.high (v.extractLsb' 8 8)

/-! ## Program counter -/

/-- A word address taken modulo `2^PC_BITS` (R7, R27). -/
def State.wrapPc (s : State) (t : Word) : Word := BitVec.ofNat 16 (t.toNat % 2 ^ s.cfg.pcBits)

/-- `pc <- t` (R7). -/
def State.setPc (s : State) (t : Word) : State := { s with pc := s.wrapPc t }

/-- `pc <- pc + L`, the end of every instruction that is no taken control transfer (R26). -/
def State.advance (s : State) (words : Nat) : State := s.setPc (s.pc + BitVec.ofNat 16 words)

/-- The relative target `pc + k + 1`, `k` a signed number of words (R180). -/
def State.relTarget (s : State) {n : Nat} (k : BitVec n) : Word := s.pc + k.signExtend 16 + 1

/-! ## Plain field updates -/

/-- Replace SREG, all eight flags. -/
def State.setSreg (s : State) (v : Byte) : State := { s with sreg := v }

/-- Replace SP. -/
def State.setSp (s : State) (v : Word) : State := { s with sp := v }

/-- Replace `irq_hold`. -/
def State.setHold (s : State) (b : Bool) : State := { s with irqHold := b }

/-- Store a RAM byte (R62). -/
def State.setRam (s : State) (a : Nat) (v : Byte) : State :=
  { s with ram := Memory.write ramBlank s.ram a v }

/-- Store a DDRx or PORTx register (R34). -/
def State.setLatch (s : State) (a : IoAddr) (v : Byte) : State :=
  { s with latches := Memory.write (some latchBlank) s.latches a.toNat v }

/-- One draw is taken (R10). -/
def State.drawn (s : State) : State := { s with draws := s.draws + 1 }

/-! ## Reading one byte of each memory -/

/-- The RAM byte at a data address, if one was written (R62). -/
def State.ramByte (s : State) (a : Nat) : Option Byte := Memory.lookup s.ram a

/-- The DDRx or PORTx register at an I/O address (R34, R37). -/
def State.latch (s : State) (a : IoAddr) : Byte := (Memory.lookup s.latches a.toNat).getD latchBlank

/-- The byte of program memory at a byte address (R67), whatever `FLASHEND` is. -/
def State.rawFlash (s : State) (b : Nat) : Byte := (Memory.lookup s.flash b).getD flashBlank

/-! ## Program memory -/

/-- The word at a word address, its low byte at the even byte address (R66, R67), whatever `FLASHEND` is. -/
def State.rawFlashWord (s : State) (w : Word) : Word :=
  s.rawFlash (2 * w.toNat + 1) ++ s.rawFlash (2 * w.toNat)

/-- Is a word address inside program memory (R66)? -/
def State.inFlash (s : State) (w : Word) : Bool := w.toNat < s.cfg.flashWords

/-- `FlashByte(b)`, stopped above `FLASHEND` (R67, D28): the low byte of word `b >> 1` when `b[0] = 0`, else the high
byte. -/
def flashByte (b : Word) (s : State) : Result Byte :=
  if s.inFlash (b >>> 1) then .next (s.rawFlash b.toNat) else .fault (.lpmOutsideFlash b)

/-- Store a word of program memory, low byte at the even address.  No instruction does (R66); the launch does (R9). -/
def State.setFlashWord (s : State) (w v : Word) : State :=
  { s with
    flash := Memory.write (some flashBlank)
      (Memory.write (some flashBlank) s.flash (2 * w.toNat) (v.extractLsb' 0 8))
      (2 * w.toNat + 1) (v.extractLsb' 8 8) }

/-! ## The I/O space -/

/-- What stands at an I/O address (R63). -/
inductive IoReg where
  | sreg | spl | sph | ddr | port | pin
deriving DecidableEq, Repr

/-- The I/O register at an address, none where the spec gives none (R63, R65). -/
def ioReg (c : Config) (a : IoAddr) : Option IoReg :=
  if a = c.sregIo then some .sreg
  else if a = c.splIo then some .spl
  else if a = c.sphIo then some .sph
  else if c.ports.any (fun p => p.ddrIo == a) then some .ddr
  else if c.ports.any (fun p => p.portIo == a) then some .port
  else if c.ports.any (fun p => p.pinIo == a) then some .pin
  else none

/-- `IoRead(A)` (R64).  A PINx read is a fresh draw (R34). -/
def ioRead (a : IoAddr) (s : State) : Result (Byte × State) :=
  match ioReg s.cfg a with
  | some .sreg => .next (s.sreg, s)
  | some .spl => .next (s.sp.extractLsb' 0 8, s)
  | some .sph => .next (s.sp.extractLsb' 8 8, s)
  | some .ddr => .next (s.latch a, s)
  | some .port => .next (s.latch a, s)
  | some .pin => .next (Config.pinLevels s.draws, s.drawn)
  | none => .refused (.unspecifiedIo a)

/-- Write all eight flags at once; if I goes 0 to 1, `irq_hold <- 1` (R30, R36, R64). -/
def writeSreg (v : Byte) (s : State) : State :=
  (s.setSreg v).setHold (s.irqHold || (!flagI s.sreg && flagI v))

/-- `IoWrite(A, v)` (R64). -/
def ioWrite (a : IoAddr) (v : Byte) (s : State) : Result State :=
  match ioReg s.cfg a with
  | some .sreg => .next (writeSreg v s)
  | some .spl => .next (s.setSp (s.sp.extractLsb' 8 8 ++ v))
  | some .sph => .next (s.setSp (v ++ s.sp.extractLsb' 0 8))
  | some .ddr => .next (s.setLatch a v)
  | some .port => .next (s.setLatch a v)
  | some .pin => .refused (.pinWrite a)
  | none => .refused (.unspecifiedIo a)

/-! ## Data memory -/

/-- What a data address names (R61). -/
inductive DataPlace where
  | reg (d : Reg) | io (a : IoAddr) | ram | nothing
deriving DecidableEq, Repr

/-- The data address space (R61). -/
def dataPlace (c : Config) (a : Word) : DataPlace :=
  if a.toNat < Config.ioBase then .reg (a.setWidth 5)
  else if a.toNat < Config.ioBase + Config.ioSize then .io (BitVec.ofNat 6 (a.toNat - Config.ioBase))
  else if c.sramStart ≤ a.toNat ∧ a.toNat ≤ c.ramEnd then .ram
  else .nothing

/-- A load of a RAM byte: the last value written; a byte nothing has written gives a fresh draw (R24, R37, R62, D22; log:
notes/assumptions/4.md). -/
def ramRead (a : Word) (s : State) : Byte × State :=
  match s.ramByte a.toNat with
  | some v => (v, s)
  | none => (Config.unwrittenByte s.draws, s.drawn)

/-- `MemRead(a, 1)` (R62). -/
def memRead (a : Word) (s : State) : Result (Byte × State) :=
  match dataPlace s.cfg a with
  | .reg d => .next (s.reg d, s)
  | .io b => ioRead b s
  | .ram => .next (ramRead a s)
  | .nothing => .fault (.noMemory a)

/-- `MemWrite(a, 1, v)` (R62). -/
def memWrite (a : Word) (v : Byte) (s : State) : Result State :=
  match dataPlace s.cfg a with
  | .reg d => .next (s.setReg d v)
  | .io b => ioWrite b v s
  | .ram => .next (s.setRam a.toNat v)
  | .nothing => .fault (.noMemory a)

/-! ## The stack -/

/-- An access `x` to the stack byte at `a`, refused where `a` is below the RAM, in the register file or the I/O space (R70,
R301, R306; log: notes/assumptions/25.md); an address with nothing behind it stops in `x` itself (R62). -/
def stackAccess {α : Type} (a : Word) (x : Result α) : Result α :=
  if a.toNat < Config.ioBase + Config.ioSize then .refused (.stackOutsideRam a) else x

/-- `Push(v)`: store at SP, then decrement SP (R70). -/
def push (v : Byte) (s : State) : Result State :=
  andThen (stackAccess s.sp (memWrite s.sp v s)) fun t => .next (t.setSp (t.sp - 1))

/-- `Pop()`: increment SP, then load from it (R70). -/
def pop (s : State) : Result (Byte × State) :=
  stackAccess (s.sp + 1) (memRead (s.sp + 1) (s.setSp (s.sp + 1)))

/-- `PushAddr(ra)`: two bytes, the low one first (R71). -/
def pushAddr (ra : Word) (s : State) : Result State :=
  andThen (push (ra.extractLsb' 0 8) s) fun t => push (ra.extractLsb' 8 8) t

/-- `PopAddr()`: the high byte, then the low one (R71); `pc <- t` reduces the answer modulo `2^PC_BITS`. -/
def popAddr (s : State) : Result (Word × State) :=
  andThen (pop s) fun (hi, t) => andThen (pop t) fun (lo, u) => .next (hi ++ lo, u)

/-! ## Interrupts: the entry and the return -/

/-- The source of the highest priority, the smallest rank (R305, R308; log: notes/assumptions/13.md). -/
def highestPriority : List IrqSource → Option IrqSource
  | [] => none
  | x :: xs =>
    match highestPriority xs with
    | none => some x
    | some y => if x.priority ≤ y.priority then some x else some y

/-- The sources of `IRQ` that a set of positions names (R304). -/
def State.sourcesOf (s : State) (req : List Nat) : List IrqSource := req.filterMap (fun n => s.cfg.irq[n]?)

/-- The set `req` the environment presents at this step boundary (R304), as sources of `IRQ`. -/
def State.requesting (s : State) : List IrqSource := s.sourcesOf (s.requests.headD [])

/-- The interrupt taken at this boundary, if one is: I is 1, `irq_hold` is 0 and `req` is not empty (R305). -/
def State.dueInterrupt (s : State) : Option IrqSource :=
  if flagI s.sreg && !s.irqHold then highestPriority s.requesting else none

/-- This boundary is passed: the environment's next set comes next (R304). -/
def State.passBoundary (s : State) : State := { s with requests := s.requests.tail }

/-- `interrupt_entry(i)`: push the pc as CALL does, clear I, go to the vector (R306). -/
def interruptEntry (src : IrqSource) (s : State) : Result State :=
  andThen (pushAddr s.pc s) fun t =>
    .next ((t.setSreg (withI t.sreg false)).setPc src.vector)

/-- The return every return instruction makes: the pc comes off the stack (R185, R186). -/
def returnPc (s : State) : Result State :=
  andThen (popAddr s) fun (ra, t) => .next (t.setPc ra)

/-- The return from an interrupt: pop the pc, set I, hold interrupts off for one instruction (R186, R309). -/
def interruptReturn (s : State) : Result State :=
  andThen (returnPc s) fun t => .next ((t.setSreg (withI t.sreg true)).setHold true)

end Sys2Proof.Machine
end

