-- ==== Sys2Proof/Machine/Operands.lean ====
section
/-! DEFINITION. The operand forms of the loads and stores (spec/42_data_transfer.md R251): the addressing modes, the
effective address each gives, and the one load and the one store that every form is. -/

namespace Sys2Proof.Machine

/-- The indirect addressing modes of R251 on a pointer: bare, post-increment, pre-decrement, displacement. -/
inductive Mode where
  | plain
  | postInc
  | preDec
  | disp (q : BitVec 6)
deriving DecidableEq, Repr

/-- The effective address of a mode, from the pointer's value before the access (R60, R251). -/
def Mode.address (m : Mode) (p : Word) : Word :=
  match m with
  | .plain => p
  | .postInc => p
  | .preDec => p - 1
  | .disp q => p + q.setWidth 16

/-- Is a register one half of a pointer? -/
def Pointer.half (p : Pointer) (d : Reg) : Bool := d == p.low || d == p.high

/-- A form that updates its pointer, with one half of that pointer as its data register (R250, R290). -/
def Mode.clashes (m : Mode) (p : Pointer) (d : Reg) : Bool :=
  match m with
  | .postInc => p.half d
  | .preDec => p.half d
  | .plain => false
  | .disp _ => false

/-- The pointer update that comes before the access: pre-decrement (R251). -/
def Mode.before (m : Mode) (p : Pointer) (a : Word) (s : State) : State :=
  match m with
  | .preDec => s.setPair p a
  | .plain => s
  | .postInc => s
  | .disp _ => s

/-- The pointer update that comes after the access: post-increment, from the address computed before it (R236, R251). -/
def Mode.after (m : Mode) (p : Pointer) (a : Word) (s : State) : State :=
  match m with
  | .postInc => s.setPair p (a + 1)
  | .plain => s
  | .preDec => s
  | .disp _ => s

/-- Every indirect load (R223 to R233): address and pointer from the values before the access, then the register, then the
post-increment. -/
def loadIndirect (p : Pointer) (m : Mode) (d : Reg) (s : State) : Result State :=
  if m.clashes p d then .refused (.pointerRegisterUpdated d)
  else
    let a := m.address (s.pair p)
    andThen (memRead a (m.before p a s)) fun (v, t) => .next ((m.after p a (t.setReg d v)).advance 1)

/-- Every indirect store (R235 to R245). -/
def storeIndirect (p : Pointer) (m : Mode) (r : Reg) (s : State) : Result State :=
  if m.clashes p r then .refused (.pointerRegisterUpdated r)
  else
    let a := m.address (s.pair p)
    let t := m.before p a s
    andThen (memWrite a (t.reg r) t) fun u => .next ((m.after p a u).advance 1)

/-- The load from program memory, plain or post-increment (R288, R289). -/
def loadFlash (m : Mode) (d : Reg) (s : State) : Result State :=
  if m.clashes .z d then .refused (.pointerRegisterUpdated d)
  else
    let a := s.pair .z
    andThen (flashByte a s) fun v => .next ((m.after .z a (s.setReg d v)).advance 1)

end Sys2Proof.Machine
end

