-- ==== Sys2Proof/Machine/ArithLogic.lean ====
section
/-! DEFINITION. The meanings of the arithmetic and logic instructions (spec/40_arith_logic.md).  All operands are read
before anything is written (R140). -/

namespace Sys2Proof.Machine

/-- The end every instruction of this family shares: write Rd and SREG, step one word (R140). -/
def writeBack (d : Reg) (v sreg : Byte) (s : State) : Result State :=
  .next (((s.setReg d v).setSreg sreg).advance 1)

/-- The additions: `R[d] <- flags_add(a, b, c)` (R40). -/
def addInto (d : Reg) (a b : Byte) (c : Bool) (s : State) : Result State :=
  writeBack d (addResult a b c) (flagsAdd s.sreg a b c) s

/-- The subtractions: `R[d] <- flags_sub(a, b, c, keepZ)` (R41). -/
def subInto (d : Reg) (a b : Byte) (c keepZ : Bool) (s : State) : Result State :=
  writeBack d (subResult a b c) (flagsSub s.sreg a b c keepZ) s

/-- The bitwise operations: `flags_logic(R); R[d] <- R` (R42). -/
def logicInto (d : Reg) (v : Byte) (s : State) : Result State :=
  writeBack d v (flagsLogic s.sreg v) s

/-- ADD (R141). -/
def execAdd (d r : Reg) (s : State) : Result State := addInto d (s.reg d) (s.reg r) false s

/-- ADC (R142). -/
def execAdc (d r : Reg) (s : State) : Result State := addInto d (s.reg d) (s.reg r) (flagC s.sreg) s

/-- SUB (R143). -/
def execSub (d r : Reg) (s : State) : Result State := subInto d (s.reg d) (s.reg r) false false s

/-- SUBI (R144). -/
def execSubi (d : HighReg) (k : Byte) (s : State) : Result State :=
  subInto (highReg d) (s.reg (highReg d)) k false false s

/-- SBC (R145). -/
def execSbc (d r : Reg) (s : State) : Result State :=
  subInto d (s.reg d) (s.reg r) (flagC s.sreg) true s

/-- SBCI (R146). -/
def execSbci (d : HighReg) (k : Byte) (s : State) : Result State :=
  subInto (highReg d) (s.reg (highReg d)) k (flagC s.sreg) true s

/-- INC (R147). -/
def execInc (d : Reg) (s : State) : Result State :=
  writeBack d (s.reg d + 1) (flagsIncDec s.sreg (s.reg d + 1) (s.reg d + 1 == 0x80)) s

/-- DEC (R148). -/
def execDec (d : Reg) (s : State) : Result State :=
  writeBack d (s.reg d - 1) (flagsIncDec s.sreg (s.reg d - 1) (s.reg d - 1 == 0x7F)) s

/-- NEG: `0 - Rd` (R149). -/
def execNeg (d : Reg) (s : State) : Result State := subInto d 0x00 (s.reg d) false false s

/-- AND (R150). -/
def execAnd (d r : Reg) (s : State) : Result State := logicInto d (s.reg d &&& s.reg r) s

/-- ANDI (R151). -/
def execAndi (d : HighReg) (k : Byte) (s : State) : Result State :=
  logicInto (highReg d) (s.reg (highReg d) &&& k) s

/-- OR (R152). -/
def execOr (d r : Reg) (s : State) : Result State := logicInto d (s.reg d ||| s.reg r) s

/-- ORI (R153). -/
def execOri (d : HighReg) (k : Byte) (s : State) : Result State :=
  logicInto (highReg d) (s.reg (highReg d) ||| k) s

/-- EOR (R154). -/
def execEor (d r : Reg) (s : State) : Result State := logicInto d (s.reg d ^^^ s.reg r) s

/-- COM: `0xFF - Rd`, and C is set (R155). -/
def execCom (d : Reg) (s : State) : Result State :=
  writeBack d (0xFF - s.reg d) (withC (flagsLogic s.sreg (0xFF - s.reg d)) true) s

/-- CLR: `R[d] <- 0x00`, S, V, N cleared, Z set (R156).  Every register holds a value here, so the rule's remark about a
register that holds none does not arise (log: notes/assumptions/16.md). -/
def execClr (d : Reg) (s : State) : Result State :=
  writeBack d 0x00 (withSVNZ s.sreg false false false true) s

/-- SER: `R[d] <- 0xFF`, no flag (R157). -/
def execSer (d : HighReg) (s : State) : Result State := writeBack (highReg d) 0xFF s.sreg s

end Sys2Proof.Machine
end

