-- ==== Sys2Proof/Machine/Control.lean ====
section
/-! DEFINITION. The meanings of the jumps, calls, returns, compares and conditional branches
(spec/41_jump_compare_branch.md). -/

namespace Sys2Proof.Machine

/-- The absolute target of JMP and CALL, refused from `2^PC_BITS` on (R108, R182, R184). -/
def absTarget (k : BitVec 22) (s : State) : Result Word :=
  if k.toNat < 2 ^ s.cfg.pcBits then .next (k.setWidth 16) else .refused (.jumpTargetOutsidePcBits k)

/-- A call: push the return address, `len` words on, then go to the target (R183, R184). -/
def callTo (len : Nat) (target : Word) (s : State) : Result State :=
  andThen (pushAddr (s.wrapPc (s.pc + BitVec.ofNat 16 len)) s) fun t => .next (t.setPc target)

/-- A compare: SREG as the subtraction leaves it, the result discarded (R187 to R189). -/
def compareWith (a b : Byte) (c keepZ : Bool) (s : State) : Result State :=
  .next ((s.setSreg (flagsSub s.sreg a b c keepZ)).advance 1)

/-- A conditional branch: `pc + k + 1` where the condition holds, else `pc + 1` (R191, R192). -/
def branchIf (taken : Bool) (k : BitVec 7) (s : State) : Result State :=
  .next (if taken then s.setPc (s.relTarget k) else s.advance 1)

/-- RJMP (R181). -/
def execRjmp (k : BitVec 12) (s : State) : Result State := .next (s.setPc (s.relTarget k))

/-- JMP (R182). -/
def execJmp (k : BitVec 22) (s : State) : Result State :=
  andThen (absTarget k s) fun t => .next (s.setPc t)

/-- RCALL (R183). -/
def execRcall (k : BitVec 12) (s : State) : Result State := callTo 1 (s.relTarget k) s

/-- CALL (R184). -/
def execCall (k : BitVec 22) (s : State) : Result State :=
  andThen (absTarget k s) fun t => callTo 2 t s

/-- RET (R185). -/
def execRet (s : State) : Result State := returnPc s

/-- RETI (R186). -/
def execReti (s : State) : Result State := interruptReturn s

/-- CP (R187). -/
def execCp (d r : Reg) (s : State) : Result State := compareWith (s.reg d) (s.reg r) false false s

/-- CPC (R188). -/
def execCpc (d r : Reg) (s : State) : Result State :=
  compareWith (s.reg d) (s.reg r) (flagC s.sreg) true s

/-- CPI (R189). -/
def execCpi (d : HighReg) (k : Byte) (s : State) : Result State :=
  compareWith (s.reg (highReg d)) k false false s

/-- TST (R190). -/
def execTst (d : Reg) (s : State) : Result State :=
  .next ((s.setSreg (flagsLogic s.sreg (s.reg d))).advance 1)

/-- BRBS (R191). -/
def execBrbs (b : BitVec 3) (k : BitVec 7) (s : State) : Result State :=
  branchIf (s.sreg.getLsbD b.toNat) k s

/-- BRBC (R192). -/
def execBrbc (b : BitVec 3) (k : BitVec 7) (s : State) : Result State :=
  branchIf (!s.sreg.getLsbD b.toNat) k s

/-- BREQ (R193). -/
def execBreq (k : BitVec 7) (s : State) : Result State := branchIf (flagZ s.sreg) k s

/-- BRNE (R194). -/
def execBrne (k : BitVec 7) (s : State) : Result State := branchIf (!flagZ s.sreg) k s

/-- BRCS (R195). -/
def execBrcs (k : BitVec 7) (s : State) : Result State := branchIf (flagC s.sreg) k s

/-- BRCC (R196). -/
def execBrcc (k : BitVec 7) (s : State) : Result State := branchIf (!flagC s.sreg) k s

/-- BRSH (R197). -/
def execBrsh (k : BitVec 7) (s : State) : Result State := branchIf (!flagC s.sreg) k s

/-- BRLO (R198). -/
def execBrlo (k : BitVec 7) (s : State) : Result State := branchIf (flagC s.sreg) k s

end Sys2Proof.Machine
end

