-- ==== Sys2Proof/Machine/Misc.lean ====
section
/-! DEFINITION. The meanings of the miscellaneous instructions (spec/44_misc.md). -/

namespace Sys2Proof.Machine

/-- NOP (R285). -/
def execNop (s : State) : Result State := .next (s.advance 1)

/-- SEI: I is set, and no interrupt is taken before the next instruction (R286). -/
def execSei (s : State) : Result State :=
  .next (((s.setSreg (withI s.sreg true)).setHold true).advance 1)

/-- CLI: I is cleared (R287). -/
def execCli (s : State) : Result State := .next ((s.setSreg (withI s.sreg false)).advance 1)

/-- LPM Rd, Z (R288). -/
def execLpm (d : Reg) (s : State) : Result State := loadFlash .plain d s

/-- LPM Rd, Z+ (R289, R290). -/
def execLpmInc (d : Reg) (s : State) : Result State := loadFlash .postInc d s

end Sys2Proof.Machine
end

