-- ==== Sys2Proof/Machine/Shift.lean ====
section
/-! DEFINITION. The meanings of the shifts and rotates (spec/43_bit_ops.md R275).  S is written by all five (R275, D13; log:
notes/assumptions/15.md). -/

namespace Sys2Proof.Machine

/-- The right shifts: `flags_shr(a, R); R[d] <- R` (R43). -/
def shiftInto (d : Reg) (v : Byte) (s : State) : Result State :=
  writeBack d v (flagsShr s.sreg (s.reg d) v) s

/-- LSL: `flags_add(a, a, 0)` (R270). -/
def execLsl (d : Reg) (s : State) : Result State := addInto d (s.reg d) (s.reg d) false s

/-- LSR: 0 enters at bit 7 (R271). -/
def execLsr (d : Reg) (s : State) : Result State := shiftInto d (s.reg d >>> 1) s

/-- ROL: `flags_add(a, a, C)` (R272). -/
def execRol (d : Reg) (s : State) : Result State := addInto d (s.reg d) (s.reg d) (flagC s.sreg) s

/-- ROR: the old C enters at bit 7 (R273). -/
def execRor (d : Reg) (s : State) : Result State :=
  shiftInto d (BitVec.ofBool (flagC s.sreg) ++ (s.reg d).extractLsb' 1 7) s

/-- ASR: bit 7 is kept (R274). -/
def execAsr (d : Reg) (s : State) : Result State :=
  shiftInto d ((s.reg d &&& 0x80) ||| (s.reg d >>> 1)) s

end Sys2Proof.Machine
end

