-- ==== Sys2Proof/Machine/Transfer.lean ====
section
/-! DEFINITION. The meanings of the data transfer instructions (spec/42_data_transfer.md): each load and store is one
operand form of Operands.lean. -/

namespace Sys2Proof.Machine

/-- MOV (R220). -/
def execMov (d r : Reg) (s : State) : Result State := .next ((s.setReg d (s.reg r)).advance 1)

/-- LDI (R221). -/
def execLdi (d : HighReg) (k : Byte) (s : State) : Result State :=
  .next ((s.setReg (highReg d) k).advance 1)

/-- LDS, refused below R16 (R222). -/
def execLds (d : Reg) (k : Word) (s : State) : Result State :=
  if d.toNat < 16 then .refused (.ldsLowRegister d)
  else andThen (memRead k s) fun (v, t) => .next ((t.setReg d v).advance 2)

/-- LD Rd, X (R223). -/
def execLdX (d : Reg) (s : State) : Result State := loadIndirect .x .plain d s
/-- LD Rd, X+ (R224). -/
def execLdXInc (d : Reg) (s : State) : Result State := loadIndirect .x .postInc d s
/-- LD Rd, -X (R225). -/
def execLdXDec (d : Reg) (s : State) : Result State := loadIndirect .x .preDec d s
/-- LD Rd, Y (R226). -/
def execLdY (d : Reg) (s : State) : Result State := loadIndirect .y .plain d s
/-- LD Rd, Y+ (R227). -/
def execLdYInc (d : Reg) (s : State) : Result State := loadIndirect .y .postInc d s
/-- LD Rd, -Y (R228). -/
def execLdYDec (d : Reg) (s : State) : Result State := loadIndirect .y .preDec d s
/-- LDD Rd, Y+q (R229). -/
def execLddY (d : Reg) (q : BitVec 6) (s : State) : Result State := loadIndirect .y (.disp q) d s
/-- LD Rd, Z (R230). -/
def execLdZ (d : Reg) (s : State) : Result State := loadIndirect .z .plain d s
/-- LD Rd, Z+ (R231). -/
def execLdZInc (d : Reg) (s : State) : Result State := loadIndirect .z .postInc d s
/-- LD Rd, -Z (R232). -/
def execLdZDec (d : Reg) (s : State) : Result State := loadIndirect .z .preDec d s
/-- LDD Rd, Z+q (R233). -/
def execLddZ (d : Reg) (q : BitVec 6) (s : State) : Result State := loadIndirect .z (.disp q) d s

/-- STS (R234). -/
def execSts (k : Word) (r : Reg) (s : State) : Result State :=
  andThen (memWrite k (s.reg r) s) fun t => .next (t.advance 2)

/-- ST X, Rr (R235). -/
def execStX (r : Reg) (s : State) : Result State := storeIndirect .x .plain r s
/-- ST X+, Rr (R236). -/
def execStXInc (r : Reg) (s : State) : Result State := storeIndirect .x .postInc r s
/-- ST -X, Rr (R237). -/
def execStXDec (r : Reg) (s : State) : Result State := storeIndirect .x .preDec r s
/-- ST Y, Rr (R238). -/
def execStY (r : Reg) (s : State) : Result State := storeIndirect .y .plain r s
/-- ST Y+, Rr (R239). -/
def execStYInc (r : Reg) (s : State) : Result State := storeIndirect .y .postInc r s
/-- ST -Y, Rr (R240). -/
def execStYDec (r : Reg) (s : State) : Result State := storeIndirect .y .preDec r s
/-- STD Y+q, Rr (R241). -/
def execStdY (q : BitVec 6) (r : Reg) (s : State) : Result State := storeIndirect .y (.disp q) r s
/-- ST Z, Rr (R242). -/
def execStZ (r : Reg) (s : State) : Result State := storeIndirect .z .plain r s
/-- ST Z+, Rr (R243). -/
def execStZInc (r : Reg) (s : State) : Result State := storeIndirect .z .postInc r s
/-- ST -Z, Rr (R244). -/
def execStZDec (r : Reg) (s : State) : Result State := storeIndirect .z .preDec r s
/-- STD Z+q, Rr (R245). -/
def execStdZ (q : BitVec 6) (r : Reg) (s : State) : Result State := storeIndirect .z (.disp q) r s

/-- IN (R246). -/
def execIn (d : Reg) (a : IoAddr) (s : State) : Result State :=
  andThen (ioRead a s) fun (v, t) => .next ((t.setReg d v).advance 1)

/-- OUT (R247). -/
def execOut (a : IoAddr) (r : Reg) (s : State) : Result State :=
  andThen (ioWrite a (s.reg r) s) fun t => .next (t.advance 1)

/-- PUSH (R248). -/
def execPush (r : Reg) (s : State) : Result State :=
  andThen (push (s.reg r) s) fun t => .next (t.advance 1)

/-- POP (R249). -/
def execPop (d : Reg) (s : State) : Result State :=
  andThen (pop s) fun (v, t) => .next ((t.setReg d v).advance 1)

end Sys2Proof.Machine
end

