-- ==== Sys2Proof/Syntax.lean ====
section
/-! DEFINITION. The instruction forms of the excerpt, whole: one constructor per row of spec/opcode_table.json (75 rows,
spec/30_encoding.md R115), in the table's order.  Fifteen of them are second spellings of another form's words (R116);
`Instr.core` gives the form those words decode to, and `Instr.isSecondSpelling` names them.  Operand fields have the width
of the encoding's field (R121). -/

namespace Sys2Proof

/-- The 75 instruction forms (R115), in the source's order. -/
inductive Instr where
  /-- `ADD Rd, Rr` (row 1, R141). -/
  | add (d : Reg) (r : Reg)
  /-- `ADC Rd, Rr` (row 2, R142). -/
  | adc (d : Reg) (r : Reg)
  /-- `SUB Rd, Rr` (row 3, R143). -/
  | sub (d : Reg) (r : Reg)
  /-- `SUBI Rd, K`, Rd = R16..R31 (row 4, R144). -/
  | subi (d : HighReg) (k : Byte)
  /-- `SBC Rd, Rr` (row 5, R145). -/
  | sbc (d : Reg) (r : Reg)
  /-- `SBCI Rd, K`, Rd = R16..R31 (row 6, R146). -/
  | sbci (d : HighReg) (k : Byte)
  /-- `INC Rd` (row 7, R147). -/
  | inc (d : Reg)
  /-- `DEC Rd` (row 8, R148). -/
  | dec (d : Reg)
  /-- `NEG Rd` (row 9, R149). -/
  | neg (d : Reg)
  /-- `AND Rd, Rr` (row 10, R150). -/
  | and (d : Reg) (r : Reg)
  /-- `ANDI Rd, K`, Rd = R16..R31 (row 11, R151). -/
  | andi (d : HighReg) (k : Byte)
  /-- `OR Rd, Rr` (row 12, R152). -/
  | or (d : Reg) (r : Reg)
  /-- `ORI Rd, K`, Rd = R16..R31 (row 13, R153). -/
  | ori (d : HighReg) (k : Byte)
  /-- `EOR Rd, Rr` (row 14, R154). -/
  | eor (d : Reg) (r : Reg)
  /-- `COM Rd` (row 15, R155). -/
  | com (d : Reg)
  /-- `CLR Rd` (row 16, R156); second spelling of `EOR Rd, Rd`. -/
  | clr (d : Reg)
  /-- `SER Rd`, Rd = R16..R31 (row 17, R157); second spelling of `LDI Rd, 0xFF`. -/
  | ser (d : HighReg)
  /-- `RJMP k`, k signed, in words (row 18, R181). -/
  | rjmp (k : BitVec 12)
  /-- `JMP k`, k a word address (row 19, R182). -/
  | jmp (k : BitVec 22)
  /-- `RCALL k`, k signed, in words (row 20, R183). -/
  | rcall (k : BitVec 12)
  /-- `CALL k`, k a word address (row 21, R184). -/
  | call (k : BitVec 22)
  /-- `RET` (row 22, R185). -/
  | ret
  /-- `RETI` (row 23, R186). -/
  | reti
  /-- `CP Rd, Rr` (row 24, R187). -/
  | cp (d : Reg) (r : Reg)
  /-- `CPC Rd, Rr` (row 25, R188). -/
  | cpc (d : Reg) (r : Reg)
  /-- `CPI Rd, K`, Rd = R16..R31 (row 26, R189). -/
  | cpi (d : HighReg) (k : Byte)
  /-- `TST Rd` (row 27, R190); second spelling of `AND Rd, Rd`. -/
  | tst (d : Reg)
  /-- `BRBS s, k`, k signed, in words (row 28, R191). -/
  | brbs (b : BitVec 3) (k : BitVec 7)
  /-- `BRBC s, k`, k signed, in words (row 29, R192). -/
  | brbc (b : BitVec 3) (k : BitVec 7)
  /-- `BREQ k` (row 30, R193); second spelling of `BRBS 1, k`. -/
  | breq (k : BitVec 7)
  /-- `BRNE k` (row 31, R194); second spelling of `BRBC 1, k`. -/
  | brne (k : BitVec 7)
  /-- `BRCS k` (row 32, R195); second spelling of `BRBS 0, k`. -/
  | brcs (k : BitVec 7)
  /-- `BRCC k` (row 33, R196); second spelling of `BRBC 0, k`. -/
  | brcc (k : BitVec 7)
  /-- `BRSH k` (row 34, R197); second spelling of `BRBC 0, k`. -/
  | brsh (k : BitVec 7)
  /-- `BRLO k` (row 35, R198); second spelling of `BRBS 0, k`. -/
  | brlo (k : BitVec 7)
  /-- `MOV Rd, Rr` (row 36, R220). -/
  | mov (d : Reg) (r : Reg)
  /-- `LDI Rd, K`, Rd = R16..R31 (row 37, R221). -/
  | ldi (d : HighReg) (k : Byte)
  /-- `LDS Rd, k`, k a data address; admitted for Rd = R16..R31 only (row 38, R222). -/
  | lds (d : Reg) (k : Word)
  /-- `LD Rd, X` (row 39, R223). -/
  | ldX (d : Reg)
  /-- `LD Rd, X+` (row 40, R224). -/
  | ldXInc (d : Reg)
  /-- `LD Rd, -X` (row 41, R225). -/
  | ldXDec (d : Reg)
  /-- `LD Rd, Y` (row 42, R226); second spelling of `LDD Rd, Y+0`. -/
  | ldY (d : Reg)
  /-- `LD Rd, Y+` (row 43, R227). -/
  | ldYInc (d : Reg)
  /-- `LD Rd, -Y` (row 44, R228). -/
  | ldYDec (d : Reg)
  /-- `LDD Rd, Y+q` (row 45, R229). -/
  | lddY (d : Reg) (q : BitVec 6)
  /-- `LD Rd, Z` (row 46, R230); second spelling of `LDD Rd, Z+0`. -/
  | ldZ (d : Reg)
  /-- `LD Rd, Z+` (row 47, R231). -/
  | ldZInc (d : Reg)
  /-- `LD Rd, -Z` (row 48, R232). -/
  | ldZDec (d : Reg)
  /-- `LDD Rd, Z+q` (row 49, R233). -/
  | lddZ (d : Reg) (q : BitVec 6)
  /-- `STS k, Rr`, k a data address (row 50, R234). -/
  | sts (k : Word) (r : Reg)
  /-- `ST X, Rr` (row 51, R235). -/
  | stX (r : Reg)
  /-- `ST X+, Rr` (row 52, R236). -/
  | stXInc (r : Reg)
  /-- `ST -X, Rr` (row 53, R237). -/
  | stXDec (r : Reg)
  /-- `ST Y, Rr` (row 54, R238); second spelling of `STD Y+0, Rr`. -/
  | stY (r : Reg)
  /-- `ST Y+, Rr` (row 55, R239). -/
  | stYInc (r : Reg)
  /-- `ST -Y, Rr` (row 56, R240). -/
  | stYDec (r : Reg)
  /-- `STD Y+q, Rr` (row 57, R241). -/
  | stdY (q : BitVec 6) (r : Reg)
  /-- `ST Z, Rr` (row 58, R242); second spelling of `STD Z+0, Rr`. -/
  | stZ (r : Reg)
  /-- `ST Z+, Rr` (row 59, R243). -/
  | stZInc (r : Reg)
  /-- `ST -Z, Rr` (row 60, R244). -/
  | stZDec (r : Reg)
  /-- `STD Z+q, Rr` (row 61, R245). -/
  | stdZ (q : BitVec 6) (r : Reg)
  /-- `IN Rd, A` (row 62, R246). -/
  | ioIn (d : Reg) (a : IoAddr)
  /-- `OUT A, Rr` (row 63, R247). -/
  | ioOut (a : IoAddr) (r : Reg)
  /-- `PUSH Rr` (row 64, R248). -/
  | push (r : Reg)
  /-- `POP Rd` (row 65, R249). -/
  | pop (d : Reg)
  /-- `LSL Rd` (row 66, R270); second spelling of `ADD Rd, Rd`. -/
  | lsl (d : Reg)
  /-- `LSR Rd` (row 67, R271). -/
  | lsr (d : Reg)
  /-- `ROL Rd` (row 68, R272); second spelling of `ADC Rd, Rd`. -/
  | rol (d : Reg)
  /-- `ROR Rd` (row 69, R273). -/
  | ror (d : Reg)
  /-- `ASR Rd` (row 70, R274). -/
  | asr (d : Reg)
  /-- `NOP` (row 71, R285). -/
  | nop
  /-- `SEI` (row 72, R286). -/
  | sei
  /-- `CLI` (row 73, R287). -/
  | cli
  /-- `LPM Rd, Z` (row 74, R288). -/
  | lpm (d : Reg)
  /-- `LPM Rd, Z+` (row 75, R289). -/
  | lpmInc (d : Reg)
deriving DecidableEq, Repr

/-- The form whose words a second spelling stands for (R116); every other form is its own. -/
def Instr.core : Instr → Instr
  | .clr d => .eor d d
  | .tst d => .and d d
  | .lsl d => .add d d
  | .rol d => .adc d d
  | .ser d => .ldi d 0xFF
  | .breq k => .brbs 1 k
  | .brne k => .brbc 1 k
  | .brcs k => .brbs 0 k
  | .brlo k => .brbs 0 k
  | .brcc k => .brbc 0 k
  | .brsh k => .brbc 0 k
  | .ldY d => .lddY d 0
  | .ldZ d => .lddZ d 0
  | .stY r => .stdY 0 r
  | .stZ r => .stdZ 0 r
  | .add d r => .add d r
  | .adc d r => .adc d r
  | .sub d r => .sub d r
  | .subi d k => .subi d k
  | .sbc d r => .sbc d r
  | .sbci d k => .sbci d k
  | .inc d => .inc d
  | .dec d => .dec d
  | .neg d => .neg d
  | .and d r => .and d r
  | .andi d k => .andi d k
  | .or d r => .or d r
  | .ori d k => .ori d k
  | .eor d r => .eor d r
  | .com d => .com d
  | .rjmp k => .rjmp k
  | .jmp k => .jmp k
  | .rcall k => .rcall k
  | .call k => .call k
  | .ret => .ret
  | .reti => .reti
  | .cp d r => .cp d r
  | .cpc d r => .cpc d r
  | .cpi d k => .cpi d k
  | .brbs b k => .brbs b k
  | .brbc b k => .brbc b k
  | .mov d r => .mov d r
  | .ldi d k => .ldi d k
  | .lds d k => .lds d k
  | .ldX d => .ldX d
  | .ldXInc d => .ldXInc d
  | .ldXDec d => .ldXDec d
  | .ldYInc d => .ldYInc d
  | .ldYDec d => .ldYDec d
  | .lddY d q => .lddY d q
  | .ldZInc d => .ldZInc d
  | .ldZDec d => .ldZDec d
  | .lddZ d q => .lddZ d q
  | .sts k r => .sts k r
  | .stX r => .stX r
  | .stXInc r => .stXInc r
  | .stXDec r => .stXDec r
  | .stYInc r => .stYInc r
  | .stYDec r => .stYDec r
  | .stdY q r => .stdY q r
  | .stZInc r => .stZInc r
  | .stZDec r => .stZDec r
  | .stdZ q r => .stdZ q r
  | .ioIn d a => .ioIn d a
  | .ioOut a r => .ioOut a r
  | .push r => .push r
  | .pop d => .pop d
  | .lsr d => .lsr d
  | .ror d => .ror d
  | .asr d => .asr d
  | .nop => .nop
  | .sei => .sei
  | .cli => .cli
  | .lpm d => .lpm d
  | .lpmInc d => .lpmInc d

/-- The fifteen second spellings of R116: forms that no word decodes to (R117). -/
def Instr.isSecondSpelling (i : Instr) : Bool := i.core != i

/-- The length in words (R100): 2 for JMP, CALL, LDS and STS, 1 for every other form. -/
def Instr.words : Instr → Nat
  | .add _ _ => 1
  | .adc _ _ => 1
  | .sub _ _ => 1
  | .subi _ _ => 1
  | .sbc _ _ => 1
  | .sbci _ _ => 1
  | .inc _ => 1
  | .dec _ => 1
  | .neg _ => 1
  | .and _ _ => 1
  | .andi _ _ => 1
  | .or _ _ => 1
  | .ori _ _ => 1
  | .eor _ _ => 1
  | .com _ => 1
  | .clr _ => 1
  | .ser _ => 1
  | .rjmp _ => 1
  | .jmp _ => 2
  | .rcall _ => 1
  | .call _ => 2
  | .ret => 1
  | .reti => 1
  | .cp _ _ => 1
  | .cpc _ _ => 1
  | .cpi _ _ => 1
  | .tst _ => 1
  | .brbs _ _ => 1
  | .brbc _ _ => 1
  | .breq _ => 1
  | .brne _ => 1
  | .brcs _ => 1
  | .brcc _ => 1
  | .brsh _ => 1
  | .brlo _ => 1
  | .mov _ _ => 1
  | .ldi _ _ => 1
  | .lds _ _ => 2
  | .ldX _ => 1
  | .ldXInc _ => 1
  | .ldXDec _ => 1
  | .ldY _ => 1
  | .ldYInc _ => 1
  | .ldYDec _ => 1
  | .lddY _ _ => 1
  | .ldZ _ => 1
  | .ldZInc _ => 1
  | .ldZDec _ => 1
  | .lddZ _ _ => 1
  | .sts _ _ => 2
  | .stX _ => 1
  | .stXInc _ => 1
  | .stXDec _ => 1
  | .stY _ => 1
  | .stYInc _ => 1
  | .stYDec _ => 1
  | .stdY _ _ => 1
  | .stZ _ => 1
  | .stZInc _ => 1
  | .stZDec _ => 1
  | .stdZ _ _ => 1
  | .ioIn _ _ => 1
  | .ioOut _ _ => 1
  | .push _ => 1
  | .pop _ => 1
  | .lsl _ => 1
  | .lsr _ => 1
  | .rol _ => 1
  | .ror _ => 1
  | .asr _ => 1
  | .nop => 1
  | .sei => 1
  | .cli => 1
  | .lpm _ => 1
  | .lpmInc _ => 1

end Sys2Proof
end

