-- ==== Sys2Proof/Machine/Dispatch.lean ====
section
/-! DEFINITION. The meaning of every instruction: one arm per constructor of `Instr`, each one call of its own meaning
(spec/30_encoding.md R115). -/

namespace Sys2Proof.Machine

def exec (i : Instr) (s : State) : Host.Outcome State Fault Refusal :=
  match i with
  | .add d r => Sys2Proof.Machine.execAdd d r s
  | .adc d r => Sys2Proof.Machine.execAdc d r s
  | .sub d r => Sys2Proof.Machine.execSub d r s
  | .subi d k => Sys2Proof.Machine.execSubi d k s
  | .sbc d r => Sys2Proof.Machine.execSbc d r s
  | .sbci d k => Sys2Proof.Machine.execSbci d k s
  | .inc d => Sys2Proof.Machine.execInc d s
  | .dec d => Sys2Proof.Machine.execDec d s
  | .neg d => Sys2Proof.Machine.execNeg d s
  | .and d r => Sys2Proof.Machine.execAnd d r s
  | .andi d k => Sys2Proof.Machine.execAndi d k s
  | .or d r => Sys2Proof.Machine.execOr d r s
  | .ori d k => Sys2Proof.Machine.execOri d k s
  | .eor d r => Sys2Proof.Machine.execEor d r s
  | .com d => Sys2Proof.Machine.execCom d s
  | .clr d => Sys2Proof.Machine.execClr d s
  | .ser d => Sys2Proof.Machine.execSer d s
  | .rjmp k => Sys2Proof.Machine.execRjmp k s
  | .jmp k => Sys2Proof.Machine.execJmp k s
  | .rcall k => Sys2Proof.Machine.execRcall k s
  | .call k => Sys2Proof.Machine.execCall k s
  | .ret => Sys2Proof.Machine.execRet s
  | .reti => Sys2Proof.Machine.execReti s
  | .cp d r => Sys2Proof.Machine.execCp d r s
  | .cpc d r => Sys2Proof.Machine.execCpc d r s
  | .cpi d k => Sys2Proof.Machine.execCpi d k s
  | .tst d => Sys2Proof.Machine.execTst d s
  | .brbs b k => Sys2Proof.Machine.execBrbs b k s
  | .brbc b k => Sys2Proof.Machine.execBrbc b k s
  | .breq k => Sys2Proof.Machine.execBreq k s
  | .brne k => Sys2Proof.Machine.execBrne k s
  | .brcs k => Sys2Proof.Machine.execBrcs k s
  | .brcc k => Sys2Proof.Machine.execBrcc k s
  | .brsh k => Sys2Proof.Machine.execBrsh k s
  | .brlo k => Sys2Proof.Machine.execBrlo k s
  | .mov d r => Sys2Proof.Machine.execMov d r s
  | .ldi d k => Sys2Proof.Machine.execLdi d k s
  | .lds d k => Sys2Proof.Machine.execLds d k s
  | .ldX d => Sys2Proof.Machine.execLdX d s
  | .ldXInc d => Sys2Proof.Machine.execLdXInc d s
  | .ldXDec d => Sys2Proof.Machine.execLdXDec d s
  | .ldY d => Sys2Proof.Machine.execLdY d s
  | .ldYInc d => Sys2Proof.Machine.execLdYInc d s
  | .ldYDec d => Sys2Proof.Machine.execLdYDec d s
  | .lddY d q => Sys2Proof.Machine.execLddY d q s
  | .ldZ d => Sys2Proof.Machine.execLdZ d s
  | .ldZInc d => Sys2Proof.Machine.execLdZInc d s
  | .ldZDec d => Sys2Proof.Machine.execLdZDec d s
  | .lddZ d q => Sys2Proof.Machine.execLddZ d q s
  | .sts k r => Sys2Proof.Machine.execSts k r s
  | .stX r => Sys2Proof.Machine.execStX r s
  | .stXInc r => Sys2Proof.Machine.execStXInc r s
  | .stXDec r => Sys2Proof.Machine.execStXDec r s
  | .stY r => Sys2Proof.Machine.execStY r s
  | .stYInc r => Sys2Proof.Machine.execStYInc r s
  | .stYDec r => Sys2Proof.Machine.execStYDec r s
  | .stdY q r => Sys2Proof.Machine.execStdY q r s
  | .stZ r => Sys2Proof.Machine.execStZ r s
  | .stZInc r => Sys2Proof.Machine.execStZInc r s
  | .stZDec r => Sys2Proof.Machine.execStZDec r s
  | .stdZ q r => Sys2Proof.Machine.execStdZ q r s
  | .ioIn d a => Sys2Proof.Machine.execIn d a s
  | .ioOut a r => Sys2Proof.Machine.execOut a r s
  | .push r => Sys2Proof.Machine.execPush r s
  | .pop d => Sys2Proof.Machine.execPop d s
  | .lsl d => Sys2Proof.Machine.execLsl d s
  | .lsr d => Sys2Proof.Machine.execLsr d s
  | .rol d => Sys2Proof.Machine.execRol d s
  | .ror d => Sys2Proof.Machine.execRor d s
  | .asr d => Sys2Proof.Machine.execAsr d s
  | .nop => Sys2Proof.Machine.execNop s
  | .sei => Sys2Proof.Machine.execSei s
  | .cli => Sys2Proof.Machine.execCli s
  | .lpm d => Sys2Proof.Machine.execLpm d s
  | .lpmInc d => Sys2Proof.Machine.execLpmInc d s

end Sys2Proof.Machine
end

