-- ==== Sys2Proof/WellFormed.lean ====
section
/-! DEFINITION. The admission constraints of the instruction forms: the cells "constraint" of spec/opcode_table.json that
the widths of the operand fields do not already enforce (R22, R108, R222, R250, R290).  A form that fails its check has no
next state; its meaning refuses it by the same rule.  (The R16..R31 restriction of SUBI, SBCI, ANDI, ORI, CPI, LDI and SER
is the 4-bit `HighReg` field, so no ill-formed term of theirs exists.) -/

namespace Sys2Proof

/-- `LDS` is admitted for R16 to R31 only (R22, R222). -/
def Instr.admitsLds (d : Reg) : Bool := 16 ≤ d.toNat

/-- The target of `JMP` and `CALL` must be below `2^PC_BITS` (R108, R182, R184). -/
def Instr.admitsTarget (c : Config) (k : BitVec 22) : Bool := k.toNat < 2 ^ c.pcBits

/-- The data register of a form that updates its pointer must not be one of the pointer's two halves; `low` is the
lower-numbered half (R250, R290). -/
def Instr.admitsUpdate (low d : Reg) : Bool := d != low && d != low + 1

/-- A form is well formed when its admission constraint holds. -/
def Instr.wellFormed (c : Config) : Instr → Bool
  | .lds d _ => admitsLds d
  | .jmp k => admitsTarget c k
  | .call k => admitsTarget c k
  | .ldXInc d => admitsUpdate 26 d
  | .ldXDec d => admitsUpdate 26 d
  | .ldYInc d => admitsUpdate 28 d
  | .ldYDec d => admitsUpdate 28 d
  | .ldZInc d => admitsUpdate 30 d
  | .ldZDec d => admitsUpdate 30 d
  | .stXInc r => admitsUpdate 26 r
  | .stXDec r => admitsUpdate 26 r
  | .stYInc r => admitsUpdate 28 r
  | .stYDec r => admitsUpdate 28 r
  | .stZInc r => admitsUpdate 30 r
  | .stZDec r => admitsUpdate 30 r
  | .lpmInc d => admitsUpdate 30 d
  | .add _ _ => true
  | .adc _ _ => true
  | .sub _ _ => true
  | .subi _ _ => true
  | .sbc _ _ => true
  | .sbci _ _ => true
  | .inc _ => true
  | .dec _ => true
  | .neg _ => true
  | .and _ _ => true
  | .andi _ _ => true
  | .or _ _ => true
  | .ori _ _ => true
  | .eor _ _ => true
  | .com _ => true
  | .clr _ => true
  | .ser _ => true
  | .rjmp _ => true
  | .rcall _ => true
  | .ret => true
  | .reti => true
  | .cp _ _ => true
  | .cpc _ _ => true
  | .cpi _ _ => true
  | .tst _ => true
  | .brbs _ _ => true
  | .brbc _ _ => true
  | .breq _ => true
  | .brne _ => true
  | .brcs _ => true
  | .brcc _ => true
  | .brsh _ => true
  | .brlo _ => true
  | .mov _ _ => true
  | .ldi _ _ => true
  | .ldX _ => true
  | .ldY _ => true
  | .lddY _ _ => true
  | .ldZ _ => true
  | .lddZ _ _ => true
  | .sts _ _ => true
  | .stX _ => true
  | .stY _ => true
  | .stdY _ _ => true
  | .stZ _ => true
  | .stdZ _ _ => true
  | .ioIn _ _ => true
  | .ioOut _ _ => true
  | .push _ => true
  | .pop _ => true
  | .lsl _ => true
  | .lsr _ => true
  | .rol _ => true
  | .ror _ => true
  | .asr _ => true
  | .nop => true
  | .sei => true
  | .cli => true
  | .lpm _ => true

end Sys2Proof
end

