-- ==== Sys2Proof/Decode.lean ====
section
/-! DEFINITION. The binary level (spec/30_encoding.md): the table of the 60 forms that words decode to (R115, R117), the
decoder, total on any bytes and rejecting by name, and after it the encoder.  Program memory seen as bytes is
little-endian (R67, R101). -/

namespace Sys2Proof

/-- Why bytes are no instruction of the excerpt. -/
inductive DecodeError where
  /-- Fewer bytes than the first word, or than the two words its length test asks for (R114). -/
  | truncated
  /-- No row of R115 that is not a second spelling matches the word (R118). -/
  | notInExcerpt (w : Word)
deriving DecidableEq, Repr

/-- One row of R115 that is no second spelling: the first word `w` is this form iff `w &&& mask = pattern`; `build` reads
the operands from the first word and, for a two-word form, from the second (0 for a one-word form). -/
structure Row where
  pattern : Word
  mask : Word
  build : Word → Word → Instr

/-- The bits `w[lo+len-1 : lo]` (R6). -/
abbrev field (w : Word) (lo len : Nat) : BitVec len := w.extractLsb' lo len

/-- `d = w[8:4]`, the register field of formats RR, R1, LS16, IND, DISP and IO (R103, R105, R109 to R112). -/
def fieldD (w : Word) : Reg := field w 4 5

/-- `r = w[9]:w[3:0]`, the source register field of format RR (R103). -/
def fieldR (w : Word) : Reg := field w 9 1 ++ field w 0 4

/-- `d = w[7:4]`, the register field of format RI (R104). -/
def fieldHigh (w : Word) : HighReg := field w 4 4

/-- `K = w[11:8]:w[3:0]`, the constant of format RI (R104). -/
def fieldK (w : Word) : Byte := field w 8 4 ++ field w 0 4

/-- `k = w[11:0]` of format REL12 (R106). -/
def fieldRel12 (w : Word) : BitVec 12 := field w 0 12

/-- `k = w[9:3]` of format BR (R107). -/
def fieldRel7 (w : Word) : BitVec 7 := field w 3 7

/-- `s = w[2:0]` of format BR (R107). -/
def fieldS (w : Word) : BitVec 3 := field w 0 3

/-- `k = w[8:4]:w[0]:w2[15:0]` of format ABS22 (R108). -/
def fieldAbs22 (w w2 : Word) : BitVec 22 := field w 4 5 ++ field w 0 1 ++ w2

/-- `q = w[13]:w[11:10]:w[2:0]` of format DISP (R111). -/
def fieldQ (w : Word) : BitVec 6 := field w 13 1 ++ field w 10 2 ++ field w 0 3

/-- `A = w[10:9]:w[3:0]` of format IO (R112). -/
def fieldA (w : Word) : IoAddr := field w 9 2 ++ field w 0 4

/-- The rows of `40_arith_logic.md` in R115. -/
def rowsArithLogic : List Row := [
  ⟨0x0C00, 0xFC00, fun w _ => .add (fieldD w) (fieldR w)⟩,
  ⟨0x1C00, 0xFC00, fun w _ => .adc (fieldD w) (fieldR w)⟩,
  ⟨0x1800, 0xFC00, fun w _ => .sub (fieldD w) (fieldR w)⟩,
  ⟨0x5000, 0xF000, fun w _ => .subi (fieldHigh w) (fieldK w)⟩,
  ⟨0x0800, 0xFC00, fun w _ => .sbc (fieldD w) (fieldR w)⟩,
  ⟨0x4000, 0xF000, fun w _ => .sbci (fieldHigh w) (fieldK w)⟩,
  ⟨0x9403, 0xFE0F, fun w _ => .inc (fieldD w)⟩,
  ⟨0x940A, 0xFE0F, fun w _ => .dec (fieldD w)⟩,
  ⟨0x9401, 0xFE0F, fun w _ => .neg (fieldD w)⟩,
  ⟨0x2000, 0xFC00, fun w _ => .and (fieldD w) (fieldR w)⟩,
  ⟨0x7000, 0xF000, fun w _ => .andi (fieldHigh w) (fieldK w)⟩,
  ⟨0x2800, 0xFC00, fun w _ => .or (fieldD w) (fieldR w)⟩,
  ⟨0x6000, 0xF000, fun w _ => .ori (fieldHigh w) (fieldK w)⟩,
  ⟨0x2400, 0xFC00, fun w _ => .eor (fieldD w) (fieldR w)⟩,
  ⟨0x9400, 0xFE0F, fun w _ => .com (fieldD w)⟩]

/-- The rows of `41_jump_compare_branch.md` in R115. -/
def rowsControl : List Row := [
  ⟨0xC000, 0xF000, fun w _ => .rjmp (fieldRel12 w)⟩,
  ⟨0x940C, 0xFE0E, fun w w2 => .jmp (fieldAbs22 w w2)⟩,
  ⟨0xD000, 0xF000, fun w _ => .rcall (fieldRel12 w)⟩,
  ⟨0x940E, 0xFE0E, fun w w2 => .call (fieldAbs22 w w2)⟩,
  ⟨0x9508, 0xFFFF, fun _ _ => .ret⟩,
  ⟨0x9518, 0xFFFF, fun _ _ => .reti⟩,
  ⟨0x1400, 0xFC00, fun w _ => .cp (fieldD w) (fieldR w)⟩,
  ⟨0x0400, 0xFC00, fun w _ => .cpc (fieldD w) (fieldR w)⟩,
  ⟨0x3000, 0xF000, fun w _ => .cpi (fieldHigh w) (fieldK w)⟩,
  ⟨0xF000, 0xFC00, fun w _ => .brbs (fieldS w) (fieldRel7 w)⟩,
  ⟨0xF400, 0xFC00, fun w _ => .brbc (fieldS w) (fieldRel7 w)⟩]

/-- The rows of `42_data_transfer.md` in R115. -/
def rowsTransfer : List Row := [
  ⟨0x2C00, 0xFC00, fun w _ => .mov (fieldD w) (fieldR w)⟩,
  ⟨0xE000, 0xF000, fun w _ => .ldi (fieldHigh w) (fieldK w)⟩,
  ⟨0x9000, 0xFE0F, fun w w2 => .lds (fieldD w) w2⟩,
  ⟨0x900C, 0xFE0F, fun w _ => .ldX (fieldD w)⟩,
  ⟨0x900D, 0xFE0F, fun w _ => .ldXInc (fieldD w)⟩,
  ⟨0x900E, 0xFE0F, fun w _ => .ldXDec (fieldD w)⟩,
  ⟨0x9009, 0xFE0F, fun w _ => .ldYInc (fieldD w)⟩,
  ⟨0x900A, 0xFE0F, fun w _ => .ldYDec (fieldD w)⟩,
  ⟨0x8008, 0xD208, fun w _ => .lddY (fieldD w) (fieldQ w)⟩,
  ⟨0x9001, 0xFE0F, fun w _ => .ldZInc (fieldD w)⟩,
  ⟨0x9002, 0xFE0F, fun w _ => .ldZDec (fieldD w)⟩,
  ⟨0x8000, 0xD208, fun w _ => .lddZ (fieldD w) (fieldQ w)⟩,
  ⟨0x9200, 0xFE0F, fun w w2 => .sts w2 (fieldD w)⟩,
  ⟨0x920C, 0xFE0F, fun w _ => .stX (fieldD w)⟩,
  ⟨0x920D, 0xFE0F, fun w _ => .stXInc (fieldD w)⟩,
  ⟨0x920E, 0xFE0F, fun w _ => .stXDec (fieldD w)⟩,
  ⟨0x9209, 0xFE0F, fun w _ => .stYInc (fieldD w)⟩,
  ⟨0x920A, 0xFE0F, fun w _ => .stYDec (fieldD w)⟩,
  ⟨0x8208, 0xD208, fun w _ => .stdY (fieldQ w) (fieldD w)⟩,
  ⟨0x9201, 0xFE0F, fun w _ => .stZInc (fieldD w)⟩,
  ⟨0x9202, 0xFE0F, fun w _ => .stZDec (fieldD w)⟩,
  ⟨0x8200, 0xD208, fun w _ => .stdZ (fieldQ w) (fieldD w)⟩,
  ⟨0xB000, 0xF800, fun w _ => .ioIn (fieldD w) (fieldA w)⟩,
  ⟨0xB800, 0xF800, fun w _ => .ioOut (fieldA w) (fieldD w)⟩,
  ⟨0x920F, 0xFE0F, fun w _ => .push (fieldD w)⟩,
  ⟨0x900F, 0xFE0F, fun w _ => .pop (fieldD w)⟩]

/-- The rows of `43_bit_ops.md` in R115. -/
def rowsShift : List Row := [
  ⟨0x9406, 0xFE0F, fun w _ => .lsr (fieldD w)⟩,
  ⟨0x9407, 0xFE0F, fun w _ => .ror (fieldD w)⟩,
  ⟨0x9405, 0xFE0F, fun w _ => .asr (fieldD w)⟩]

/-- The rows of `44_misc.md` in R115. -/
def rowsMisc : List Row := [
  ⟨0x0000, 0xFFFF, fun _ _ => .nop⟩,
  ⟨0x9478, 0xFFFF, fun _ _ => .sei⟩,
  ⟨0x94F8, 0xFFFF, fun _ _ => .cli⟩,
  ⟨0x9004, 0xFE0F, fun w _ => .lpm (fieldD w)⟩,
  ⟨0x9005, 0xFE0F, fun w _ => .lpmInc (fieldD w)⟩]

/-- The 60 rows of R115 that are no second spelling (R117). -/
def rows : List Row := rowsArithLogic ++ rowsControl ++ rowsTransfer ++ rowsShift ++ rowsMisc

/-- Does the first word `w` match a row (R115)? -/
def Row.hits (w : Word) (r : Row) : Bool := w &&& r.mask == r.pattern

/-- The row a first word matches: at most one does (R117). -/
def rowOf (w : Word) : Option Row := rows.find? (Row.hits w)

/-- Is `w` the first word of a two-word instruction?  The length test of R114. -/
def isTwoWord (w : Word) : Bool := (w &&& 0xFE0C == 0x940C) || (w &&& 0xFC0F == 0x9000)

/-- Two bytes, the low one first, as a word (R67, R101). -/
def wordOfBytes (lo hi : Byte) : Word := hi ++ lo

/-- A word as two bytes, the low one first (R67, R101). -/
def bytesOfWord (w : Word) : List Byte := [w.extractLsb' 0 8, w.extractLsb' 8 8]

/-- Decode the instruction at the head of a byte list and return the bytes after it (R114, R117, R118). -/
def decode : List Byte → Except DecodeError (Instr × List Byte)
  | lo :: hi :: rest =>
    match rowOf (wordOfBytes lo hi) with
    | none => .error (.notInExcerpt (wordOfBytes lo hi))
    | some r =>
      if isTwoWord (wordOfBytes lo hi) then
        match rest with
        | lo2 :: hi2 :: rest2 => .ok (r.build (wordOfBytes lo hi) (wordOfBytes lo2 hi2), rest2)
        | _ => .error .truncated
      else .ok (r.build (wordOfBytes lo hi) 0, rest)
  | _ => .error .truncated

/-- The instruction the decoder reads from the bits `w` of an opcode-table row of `nbits` bits: bit 0 is the least
significant bit of the first word, the second word's bits count on from it, and every bit above `nbits` is 0.  The two
words are laid out low byte first, as program memory stores them (R67). -/
def decodeTableWord (nbits w : Nat) : Option Instr :=
  match decode (bytesOfWord (BitVec.ofNat 16 (w % 2 ^ nbits)) ++
      bytesOfWord (BitVec.ofNat 16 (w % 2 ^ nbits / 2 ^ 16))) with
  | .ok (i, _) => some i
  | .error _ => none

/-! ## The encoder, from the patterns of R115 and the formats of R102 to R113 -/

/-- Format RR, `oooo oord dddd rrrr` (R103). -/
def encRR (op : BitVec 6) (d r : Reg) : Word :=
  op ++ r.extractLsb' 4 1 ++ d ++ r.extractLsb' 0 4

/-- Format RI, `oooo KKKK dddd KKKK` (R104). -/
def encRI (op : BitVec 4) (d : HighReg) (k : Byte) : Word :=
  op ++ k.extractLsb' 4 4 ++ d ++ k.extractLsb' 0 4

/-- Format R1, `1001 010d dddd oooo` (R105). -/
def encR1 (op : BitVec 4) (d : Reg) : Word := 0b1001010#7 ++ d ++ op

/-- Format REL12, `oooo kkkk kkkk kkkk` (R106). -/
def encRel12 (op : BitVec 4) (k : BitVec 12) : Word := op ++ k

/-- Format BR, `1111 0okk kkkk ksss` (R107). -/
def encBr (op : BitVec 1) (s : BitVec 3) (k : BitVec 7) : Word := 0b11110#5 ++ op ++ k ++ s

/-- Format ABS22, first word `1001 010k kkkk 11ok` (R108). -/
def encAbs22 (op : BitVec 1) (k : BitVec 22) : Word :=
  0b1001010#7 ++ k.extractLsb' 17 5 ++ 0b11#2 ++ op ++ k.extractLsb' 16 1

/-- Formats LS16 (first word) and IND, `1001 00od dddd mmmm` (R109, R110). -/
def encInd (op : BitVec 1) (d : Reg) (m : BitVec 4) : Word := 0b100100#6 ++ op ++ d ++ m

/-- Format DISP, `10q0 qqod dddd yqqq` (R111). -/
def encDisp (op y : BitVec 1) (d : Reg) (q : BitVec 6) : Word :=
  0b10#2 ++ q.extractLsb' 5 1 ++ 0b0#1 ++ q.extractLsb' 3 2 ++ op ++ d ++ y ++ q.extractLsb' 0 3

/-- Format IO, `1011 oAAd dddd AAAA` (R112). -/
def encIo (op : BitVec 1) (a : IoAddr) (d : Reg) : Word :=
  0b1011#4 ++ op ++ a.extractLsb' 4 2 ++ d ++ a.extractLsb' 0 4

/-- The words of an instruction (R115).  A second spelling has the words of the form it stands for (R116), written here
from its own row's pattern. -/
def encodeWords : Instr → List Word
  | .add d r => [encRR 0b000011 d r]
  | .adc d r => [encRR 0b000111 d r]
  | .sub d r => [encRR 0b000110 d r]
  | .subi d k => [encRI 0b0101 d k]
  | .sbc d r => [encRR 0b000010 d r]
  | .sbci d k => [encRI 0b0100 d k]
  | .inc d => [encR1 0b0011 d]
  | .dec d => [encR1 0b1010 d]
  | .neg d => [encR1 0b0001 d]
  | .and d r => [encRR 0b001000 d r]
  | .andi d k => [encRI 0b0111 d k]
  | .or d r => [encRR 0b001010 d r]
  | .ori d k => [encRI 0b0110 d k]
  | .eor d r => [encRR 0b001001 d r]
  | .com d => [encR1 0b0000 d]
  | .clr d => [encRR 0b001001 d d]
  | .ser d => [encRI 0b1110 d 0xFF]
  | .rjmp k => [encRel12 0b1100 k]
  | .jmp k => [encAbs22 0 k, k.extractLsb' 0 16]
  | .rcall k => [encRel12 0b1101 k]
  | .call k => [encAbs22 1 k, k.extractLsb' 0 16]
  | .ret => [0x9508]
  | .reti => [0x9518]
  | .cp d r => [encRR 0b000101 d r]
  | .cpc d r => [encRR 0b000001 d r]
  | .cpi d k => [encRI 0b0011 d k]
  | .tst d => [encRR 0b001000 d d]
  | .brbs b k => [encBr 0 b k]
  | .brbc b k => [encBr 1 b k]
  | .breq k => [encBr 0 0b001 k]
  | .brne k => [encBr 1 0b001 k]
  | .brcs k => [encBr 0 0b000 k]
  | .brcc k => [encBr 1 0b000 k]
  | .brsh k => [encBr 1 0b000 k]
  | .brlo k => [encBr 0 0b000 k]
  | .mov d r => [encRR 0b001011 d r]
  | .ldi d k => [encRI 0b1110 d k]
  | .lds d k => [encInd 0 d 0b0000, k]
  | .ldX d => [encInd 0 d 0b1100]
  | .ldXInc d => [encInd 0 d 0b1101]
  | .ldXDec d => [encInd 0 d 0b1110]
  | .ldY d => [encDisp 0 1 d 0]
  | .ldYInc d => [encInd 0 d 0b1001]
  | .ldYDec d => [encInd 0 d 0b1010]
  | .lddY d q => [encDisp 0 1 d q]
  | .ldZ d => [encDisp 0 0 d 0]
  | .ldZInc d => [encInd 0 d 0b0001]
  | .ldZDec d => [encInd 0 d 0b0010]
  | .lddZ d q => [encDisp 0 0 d q]
  | .sts k r => [encInd 1 r 0b0000, k]
  | .stX r => [encInd 1 r 0b1100]
  | .stXInc r => [encInd 1 r 0b1101]
  | .stXDec r => [encInd 1 r 0b1110]
  | .stY r => [encDisp 1 1 r 0]
  | .stYInc r => [encInd 1 r 0b1001]
  | .stYDec r => [encInd 1 r 0b1010]
  | .stdY q r => [encDisp 1 1 r q]
  | .stZ r => [encDisp 1 0 r 0]
  | .stZInc r => [encInd 1 r 0b0001]
  | .stZDec r => [encInd 1 r 0b0010]
  | .stdZ q r => [encDisp 1 0 r q]
  | .ioIn d a => [encIo 0 a d]
  | .ioOut a r => [encIo 1 a r]
  | .push r => [encInd 1 r 0b1111]
  | .pop d => [encInd 0 d 0b1111]
  | .lsl d => [encRR 0b000011 d d]
  | .lsr d => [encR1 0b0110 d]
  | .rol d => [encRR 0b000111 d d]
  | .ror d => [encR1 0b0111 d]
  | .asr d => [encR1 0b0101 d]
  | .nop => [0x0000]
  | .sei => [0x9478]
  | .cli => [0x94F8]
  | .lpm d => [encInd 0 d 0b0100]
  | .lpmInc d => [encInd 0 d 0b0101]

/-- The bytes of an instruction as program memory stores them: each word low byte first, the first word at the lower
address (R67, R68). -/
def encode (i : Instr) : List Byte := (encodeWords i).flatMap bytesOfWord

end Sys2Proof
end

