-- ==== Sys2Proof/Machine/Fetch.lean ====
section
/-! DEFINITION. Fetching an instruction (spec/20_memory.md R66, R68; spec/10_state.md R27): its bytes in program memory,
what the decoder reads from them, and the placing of an instruction where the next step fetches. -/

namespace Sys2Proof.Machine

/-- The word address of a second word: the next higher one, modulo `2^PC_BITS` (R27, R68; log: notes/assumptions/20.md). -/
def State.secondPc (s : State) : Word := s.wrapPc (s.pc + 1)

/-- The bytes at the program counter: the word at `pc`, and the word after it where program memory has one (R68). -/
def fetchBytes (s : State) : List Byte :=
  bytesOfWord (s.rawFlashWord s.pc) ++
    (if s.inFlash s.secondPc then bytesOfWord (s.rawFlashWord s.secondPc) else [])

/-- Fetch and decode the instruction at `pc` (R27, R68, R117, R118). -/
def fetch (s : State) : Result Instr :=
  if s.inFlash s.pc then
    match decode (fetchBytes s) with
    | .ok (i, _) => .next i
    | .error (.notInExcerpt w) => .refused (.wordNotInExcerpt w)
    | .error .truncated => .fault (.fetchOutsideFlash s.secondPc)
  else .fault (.fetchOutsideFlash s.pc)

/-- Drop the interrupt request the environment presents at this boundary, if it would be taken before the fetch. -/
def State.withoutDueInterrupt (s : State) : State :=
  if s.dueInterrupt.isSome then { s with requests := [] :: s.requests.tail } else s

/-- Place the two words of an instruction whose bits are `w` (numbered as in `decodeTableWord`) at `pc` and at the word
after it. -/
def placeWords (s : State) (nbits w : Nat) : State :=
  (s.setFlashWord s.pc (BitVec.ofNat 16 (w % 2 ^ nbits))).setFlashWord s.secondPc
    (BitVec.ofNat 16 (w % 2 ^ nbits / 2 ^ 16))

end Sys2Proof.Machine
end

