-- ==== Sys2Proof/Machine/Step.lean ====
section
/-! DEFINITION. One step of the core (spec/60_exceptions.md R305): an interrupt entry where one is due at this boundary,
else the instruction at the program counter.  An executed instruction clears `irq_hold` unless it sets it itself; no
meaning reads the bit, so it is cleared before the meaning runs (log: notes/assumptions/12.md). -/

namespace Sys2Proof.Machine

/-- The state an instruction runs in: this boundary passed, `irq_hold` cleared (R305). -/
def State.enterInstr (s : State) : State := s.passBoundary.setHold false

/-- One step (R305). -/
def step (s : State) : Host.Outcome State Fault Refusal :=
  match s.dueInterrupt with
  | some src => interruptEntry src s.passBoundary
  | none => andThen (fetch s) fun i => exec i s.enterInstr

/-- `s` with the instruction whose bits are `w` stored where the next step fetches, and with no interrupt due before it.
It stands for the loading of the program from outside the machine (R9; log: notes/assumptions/7.md). -/
def State.withFetchWord (s : State) (nbits w : Nat) : State :=
  (placeWords s nbits w).withoutDueInterrupt

end Sys2Proof.Machine
end

