-- ==== Sys2Proof/Machine/EndOfRun.lean ====
section
/-! DEFINITION. The end of a run (spec/70_reset_and_hazards.md R348, D20): the hardware has no halt, and a program ends in
the one-word loop `RJMP -1`. -/

namespace Sys2Proof.Machine

/-- The word of `RJMP -1`, which jumps to itself (R348). -/
abbrev endLoopWord : Word := 0xCFFF

/-- `pc` holds the address of the end loop (R348). -/
def State.atEndLoop (s : State) : Bool := s.inFlash s.pc && s.rawFlashWord s.pc == endLoopWord

/-- No source will request again: every set the environment still presents is empty (R304, R348). -/
def State.noMoreRequests (s : State) : Bool := s.requests.all fun req => (s.sourcesOf req).isEmpty

/-- A run has finished (R348): `pc` stands at the end loop and, if `IRQ` is not empty, I is 0 or no source will request
again. -/
def State.finished (s : State) : Bool :=
  s.atEndLoop && (s.cfg.irq.isEmpty || !flagI s.sreg || s.noMoreRequests)

/-- The end state of the run from `s`, where it is reached within `n` steps: the first finished state.  A step that stops is
never an end state (R348). -/
def endState : Nat → State → Option State
  | 0, s => if s.finished then some s else none
  | n + 1, s =>
    if s.finished then some s
    else
      match step s with
      | .next t => endState n t
      | .fault _ => none
      | .refused _ => none

end Sys2Proof.Machine
end

