-- ==== Sys2Proof/Safety.lean ====
section
/-! DEFINITION. What counts as a safe run, in the terms the statements use: the invariant of the state, what an instruction
leaves unchanged (its frame), and what it means that an instruction completes. -/

namespace Sys2Proof.Machine

/-! ## The invariant -/

/-- The RAM bytes that hold a value: in canonical form, inside `SRAM_START`..`RAMEND` (R61, R62). -/
def State.ramWf (s : State) : Prop :=
  Memory.wf ramBlank s.ram ∧ ∀ x ∈ s.ram, s.cfg.sramStart ≤ x.1 ∧ x.1 ≤ s.cfg.ramEnd

/-- The latches: in canonical form, each at the address of a DDRx or a PORTx (R34). -/
def State.latchesWf (s : State) : Prop :=
  Memory.wf (some latchBlank) s.latches ∧
    ∀ x ∈ s.latches, ∃ a : IoAddr, a.toNat = x.1 ∧ (ioReg s.cfg a = some .ddr ∨ ioReg s.cfg a = some .port)

/-- The invariant of the state: a legal configuration (R5), every memory in its canonical form, and a program counter
below `2^PC_BITS` (R25, R27). -/
def State.Inv (s : State) : Prop :=
  s.cfg.wf = true ∧ s.ramWf ∧ s.latchesWf ∧ Memory.wf (some flashBlank) s.flash ∧ s.pc.toNat < 2 ^ s.cfg.pcBits

/-! ## Frames -/

/-- Every general register outside `ds` reads as before. -/
def regsKept (s t : State) (ds : List Reg) : Prop := ∀ x, x ∉ ds → t.reg x = s.reg x

/-- Every RAM byte reads as before. -/
def ramKept (s t : State) : Prop := ∀ a, t.ramByte a = s.ramByte a

/-- Every RAM byte but the ones at the addresses `as` reads as before. -/
def ramKeptBut (s t : State) (as : List Nat) : Prop := ∀ a, a ∉ as → t.ramByte a = s.ramByte a

/-- Every DDRx and PORTx register reads as before. -/
def latchesKept (s t : State) : Prop := ∀ a, t.latch a = s.latch a

/-- What no instruction ever writes: the configuration, every byte of program memory (R66), and the environment's
requests. -/
def givenKept (s t : State) : Prop :=
  t.cfg = s.cfg ∧ (∀ b, t.rawFlash b = s.rawFlash b) ∧ t.requests = s.requests

/-- All state but the general registers, SREG and the program counter is as before. -/
def restKept (s t : State) : Prop :=
  t.sp = s.sp ∧ ramKept s t ∧ latchesKept s t ∧ t.irqHold = s.irqHold ∧ t.draws = s.draws ∧ givenKept s t

/-- The flags T and I are as before: no instruction writes T, and I belongs to SEI, CLI and RETI (R29). -/
def upperFlagsKept (x y : Byte) : Prop := flagT y = flagT x ∧ flagI y = flagI x

/-- The program counter stands `n` words further on, modulo `2^PC_BITS` (R26, R27). -/
def pcSteps (s t : State) (n : Nat) : Prop := t.pc.toNat = (s.pc.toNat + n) % 2 ^ s.cfg.pcBits

/-- The program counter stands at the relative target `pc + k + 1`, modulo `2^PC_BITS` (R27, R180). -/
def pcJumps (s t : State) (k : Int) : Prop :=
  (t.pc.toNat : Int) = ((s.pc.toNat : Int) + k + 1) % 2 ^ s.cfg.pcBits

/-! ## Completion -/

/-- `i` completes: `exec` answers a next state, of which `P` holds. -/
def Completes (i : Instr) (s : State) (P : State → Prop) : Prop := ∃ t, exec i s = .next t ∧ P t

/-- `i` completes as a register instruction does (R140, R275): Rd holds `v`, SREG is `f`, the program counter steps one
word, and nothing else changes. -/
def WritesRegAndFlags (i : Instr) (s : State) (d : Reg) (v f : Byte) : Prop :=
  Completes i s fun t => t.reg d = v ∧ t.sreg = f ∧ pcSteps s t 1 ∧ regsKept s t [d] ∧ restKept s t

/-- `i` completes, Rd holds `v` and SREG is `f`. -/
def GivesRegAndFlags (i : Instr) (s : State) (d : Reg) (v f : Byte) : Prop :=
  Completes i s fun t => t.reg d = v ∧ t.sreg = f

/-- `i` completes as a compare does (R187 to R190): SREG is `f`, the program counter steps one word, and nothing else
changes. -/
def WritesFlagsOnly (i : Instr) (s : State) (f : Byte) : Prop :=
  Completes i s fun t => t.sreg = f ∧ pcSteps s t 1 ∧ regsKept s t [] ∧ restKept s t

/-- `i` completes as a conditional branch does (R191, R192): only the program counter changes. -/
def BranchesOn (i : Instr) (s : State) (taken : Bool) (k : BitVec 7) : Prop :=
  Completes i s fun t =>
    (if taken then pcJumps s t k.toInt else pcSteps s t 1) ∧
      t.sreg = s.sreg ∧ regsKept s t [] ∧ restKept s t

/-- A data address is RAM (R61). -/
def isRam (c : Config) (a : Word) : Prop := 0x60 ≤ a.toNat ∧ c.sramStart ≤ a.toNat ∧ a.toNat ≤ c.ramEnd

/-- What a load of the RAM byte at `a` answers: the byte it holds, or the free value of this draw where nothing was written
(R62, D22). -/
def ramValue (s : State) (a : Word) : Byte := (s.ramByte a.toNat).getD (Config.unwrittenByte s.draws)

/-- How many draws a load of the RAM byte at `a` takes. -/
def ramDraws (s : State) (a : Word) : Nat := if (s.ramByte a.toNat).isSome then 0 else 1

/-- `i` completes as a load from the RAM byte at `a` does: Rd holds the byte, the pointer `upd` (if any) holds its new
value, the program counter steps `len` words, and nothing else changes but the count of draws. -/
def LoadsFromRam (i : Instr) (s : State) (d : Reg) (a : Word) (upd : Option (Pointer × Word)) (len : Nat) : Prop :=
  Completes i s fun t =>
    t.reg d = ramValue s a ∧ (∀ p w, upd = some (p, w) → t.pair p = w) ∧
      regsKept s t (d :: (upd.map fun u => [u.1.low, u.1.high]).getD []) ∧
      t.sreg = s.sreg ∧ t.sp = s.sp ∧ ramKept s t ∧ latchesKept s t ∧ t.irqHold = s.irqHold ∧
      t.draws = s.draws + ramDraws s a ∧ givenKept s t ∧ pcSteps s t len

/-- `i` completes as a store of R[r] to the RAM byte at `a` does: that byte holds the register's value, the pointer `upd`
(if any) holds its new value, the program counter steps `len` words, and nothing else changes. -/
def StoresToRam (i : Instr) (s : State) (r : Reg) (a : Word) (upd : Option (Pointer × Word)) (len : Nat) : Prop :=
  Completes i s fun t =>
    t.ramByte a.toNat = some (s.reg r) ∧ ramKeptBut s t [a.toNat] ∧
      (∀ p w, upd = some (p, w) → t.pair p = w) ∧
      regsKept s t ((upd.map fun u => [u.1.low, u.1.high]).getD []) ∧
      t.sreg = s.sreg ∧ t.sp = s.sp ∧ latchesKept s t ∧ t.irqHold = s.irqHold ∧ t.draws = s.draws ∧
      givenKept s t ∧ pcSteps s t len

/-- Both bytes a call or an interrupt entry pushes are RAM (R71). -/
def stackRoom (s : State) : Prop := isRam s.cfg s.sp ∧ isRam s.cfg (s.sp - 1)

/-- Both bytes a return pops are RAM (R71). -/
def stackHolds (s : State) : Prop := isRam s.cfg (s.sp + 1) ∧ isRam s.cfg (s.sp + 2)

/-- The return address `ra` lies on the stack as R71 lays it out: from `SP = s` the low byte at `s`, the high byte at
`s - 1`, SP two lower, no other RAM byte changed. -/
def pushedAddress (s t : State) (ra : Nat) : Prop :=
  t.ramByte s.sp.toNat = some (BitVec.ofNat 8 ra) ∧
    t.ramByte (s.sp - 1).toNat = some (BitVec.ofNat 8 (ra / 256)) ∧
    ramKeptBut s t [s.sp.toNat, (s.sp - 1).toNat] ∧ t.sp = s.sp - 2

/-! ## Which instructions may store, and which flags each writes -/

/-- The instructions that write data memory or an I/O register: the stores, OUT, PUSH and the calls (R73). -/
def mayStore : Instr → Bool
  | .sts _ _ | .stX _ | .stXInc _ | .stXDec _ | .stY _ | .stYInc _ | .stYDec _ | .stdY _ _ | .stZ _ | .stZInc _
    | .stZDec _ | .stdZ _ _ | .ioOut _ _ | .push _ | .rcall _ | .call _ => true
  | .add _ _ | .adc _ _ | .sub _ _ | .subi _ _ | .sbc _ _ | .sbci _ _ | .inc _ | .dec _ | .neg _ | .and _ _
    | .andi _ _ | .or _ _ | .ori _ _ | .eor _ _ | .com _ | .clr _ | .ser _ | .rjmp _ | .jmp _ | .ret | .reti
    | .cp _ _ | .cpc _ _ | .cpi _ _ | .tst _ | .brbs _ _ | .brbc _ _ | .breq _ | .brne _ | .brcs _ | .brcc _
    | .brsh _ | .brlo _ | .mov _ _ | .ldi _ _ | .lds _ _ | .ldX _ | .ldXInc _ | .ldXDec _ | .ldY _ | .ldYInc _
    | .ldYDec _ | .lddY _ _ | .ldZ _ | .ldZInc _ | .ldZDec _ | .lddZ _ _ | .ioIn _ _ | .pop _ | .lsl _ | .lsr _
    | .rol _ | .ror _ | .asr _ | .nop | .sei | .cli | .lpm _ | .lpmInc _ => false

/-- The instructions that move SP upwards (R32). -/
def popsStack : Instr → Bool
  | .pop _ | .ret | .reti => true
  | .add _ _ | .adc _ _ | .sub _ _ | .subi _ _ | .sbc _ _ | .sbci _ _ | .inc _ | .dec _ | .neg _ | .and _ _
    | .andi _ _ | .or _ _ | .ori _ _ | .eor _ _ | .com _ | .clr _ | .ser _ | .rjmp _ | .jmp _ | .rcall _
    | .call _ | .cp _ _ | .cpc _ _ | .cpi _ _ | .tst _ | .brbs _ _ | .brbc _ _ | .breq _ | .brne _ | .brcs _
    | .brcc _ | .brsh _ | .brlo _ | .mov _ _ | .ldi _ _ | .lds _ _ | .ldX _ | .ldXInc _ | .ldXDec _ | .ldY _
    | .ldYInc _ | .ldYDec _ | .lddY _ _ | .ldZ _ | .ldZInc _ | .ldZDec _ | .lddZ _ _ | .sts _ _ | .stX _
    | .stXInc _ | .stXDec _ | .stY _ | .stYInc _ | .stYDec _ | .stdY _ _ | .stZ _ | .stZInc _ | .stZDec _
    | .stdZ _ _ | .ioIn _ _ | .ioOut _ _ | .push _ | .lsl _ | .lsr _ | .rol _ | .ror _ | .asr _ | .nop | .sei
    | .cli | .lpm _ | .lpmInc _ => false

/-- The control transfers: the jumps, calls, returns and branches, which set pc as their own rules say (R26). -/
def setsPc : Instr → Bool
  | .rjmp _ | .jmp _ | .rcall _ | .call _ | .ret | .reti | .brbs _ _ | .brbc _ _ | .breq _ | .brne _ | .brcs _
    | .brcc _ | .brsh _ | .brlo _ => true
  | .add _ _ | .adc _ _ | .sub _ _ | .subi _ _ | .sbc _ _ | .sbci _ _ | .inc _ | .dec _ | .neg _ | .and _ _
    | .andi _ _ | .or _ _ | .ori _ _ | .eor _ _ | .com _ | .clr _ | .ser _ | .cp _ _ | .cpc _ _ | .cpi _ _
    | .tst _ | .mov _ _ | .ldi _ _ | .lds _ _ | .ldX _ | .ldXInc _ | .ldXDec _ | .ldY _ | .ldYInc _ | .ldYDec _
    | .lddY _ _ | .ldZ _ | .ldZInc _ | .ldZDec _ | .lddZ _ _ | .sts _ _ | .stX _ | .stXInc _ | .stXDec _
    | .stY _ | .stYInc _ | .stYDec _ | .stdY _ _ | .stZ _ | .stZInc _ | .stZDec _ | .stdZ _ _ | .ioIn _ _
    | .ioOut _ _ | .push _ | .pop _ | .lsl _ | .lsr _ | .rol _ | .ror _ | .asr _ | .nop | .sei | .cli | .lpm _
    | .lpmInc _ => false

/-- What a conditional branch tests (R191 to R198); `none` for every other form. -/
def branchCondition (i : Instr) (sreg : Byte) : Option Bool :=
  match i.core with
  | .brbs b _ => some (sreg.getLsbD b.toNat)
  | .brbc b _ => some (!sreg.getLsbD b.toNat)
  | _ => none

/-- The fifteen second spellings, each with the form it stands for (R116). -/
def secondSpellings (d : Reg) (h : HighReg) (k : BitVec 7) : List (Instr × Instr) := [
  (.clr d, .eor d d), (.tst d, .and d d), (.lsl d, .add d d), (.rol d, .adc d d), (.ser h, .ldi h 0xFF),
  (.breq k, .brbs 1 k), (.brne k, .brbc 1 k), (.brcs k, .brbs 0 k), (.brlo k, .brbs 0 k), (.brcc k, .brbc 0 k),
  (.brsh k, .brbc 0 k), (.ldY d, .lddY d 0), (.ldZ d, .lddZ d 0), (.stY d, .stdY 0 d), (.stZ d, .stdZ 0 d)]

/-- The flags an instruction writes, by bit number: the source's Flags column as R29 reads it (S after the shifts included,
C7; I for SEI and CLI, C13). -/
def flagsListed : Instr → List Nat
  | .add _ _ | .adc _ _ | .sub _ _ | .subi _ _ | .sbc _ _ | .sbci _ _ | .neg _ | .cp _ _ | .cpc _ _ | .cpi _ _
    | .lsl _ | .rol _ => [0, 1, 2, 3, 4, 5]
  | .com _ | .lsr _ | .ror _ | .asr _ => [0, 1, 2, 3, 4]
  | .inc _ | .dec _ | .and _ _ | .andi _ _ | .or _ _ | .ori _ _ | .eor _ _ | .clr _ | .tst _ => [1, 2, 3, 4]
  | .sei | .cli | .reti => [7]
  | .ser _ | .rjmp _ | .jmp _ | .rcall _ | .call _ | .ret | .brbs _ _ | .brbc _ _ | .breq _ | .brne _ | .brcs _
    | .brcc _ | .brsh _ | .brlo _ | .mov _ _ | .ldi _ _ | .lds _ _ | .ldX _ | .ldXInc _ | .ldXDec _ | .ldY _
    | .ldYInc _ | .ldYDec _ | .lddY _ _ | .ldZ _ | .ldZInc _ | .ldZDec _ | .lddZ _ _ | .sts _ _ | .stX _
    | .stXInc _ | .stXDec _ | .stY _ | .stYInc _ | .stYDec _ | .stdY _ _ | .stZ _ | .stZInc _ | .stZDec _
    | .stdZ _ _ | .ioIn _ _ | .ioOut _ _ | .push _ | .pop _ | .nop | .lpm _ | .lpmInc _ => []

end Sys2Proof.Machine
end

