-- ==== Sys2Proof/Certificates/Slice0/Obligations.lean ====
section
/-! DEFINITION. The statements for the provers.  Each docstring names the rule of spec/ it formalises; a clause that rests
on the model's own choice names its log entry.  Register results are read through `State.reg`, RAM through
`State.ramByte`, ports through `State.latch`, program memory through `State.rawFlash`; the frames and the shapes of
completion are defined in Safety.lean. -/

open Sys2Proof Sys2Proof.Machine

/-! ## Encoding -/

/-- R115, R116, R117: the words of every form, all 75, decode to that form, or to the form a second spelling stands for,
whatever bytes follow them; every operand at every value its field holds.  That the decoder answers the row also where the
row's constraint fails (LDS below R16, a JMP or CALL target of 2^PC_BITS or above, half of an updated pointer), and leaves
the refusal to the meaning, is the model's choice (log 17, DESIGN CHOICE). -/
def Obligations.DecodeOfEncodeGivesTheCoreForm : Prop :=
  ∀ (i : Instr) (rest : List Byte), decode (encode i ++ rest) = .ok (i.core, rest)

/-- R117: the decoder never answers a second spelling, and what it answers encodes to exactly the bytes it read. -/
def Obligations.EncodeOfDecodeGivesTheBytes : Prop :=
  ∀ (bs rest : List Byte) (i : Instr), decode bs = .ok (i, rest) → bs = encode i ++ rest ∧ i.core = i

/-- R117: the rows of R115 that are no second spelling have pairwise disjoint (match, mask) sets, so at most one matches a
word. -/
def Obligations.AtMostOneRowMatches : Prop :=
  ∀ w : Word, (rows.filter (Row.hits w)).length ≤ 1

/-- Words written out bit by bit from the patterns of R115 decode to the forms they stand for: one or more per family. -/
def Obligations.SampleWordsDecode : Prop :=
  decode (bytesOfWord 0b0000111100000001) = .ok (.add 16 17, []) ∧
  decode (bytesOfWord 0b0101111100001111) = .ok (.subi 0 0xFF, []) ∧
  decode (bytesOfWord 0b1111001111101001) = .ok (.brbs 1 (-3), []) ∧
  decode (bytesOfWord 0b1001010000001110 ++ bytesOfWord 0b0000101010111100) = .ok (.call 0x0ABC, []) ∧
  decode (bytesOfWord 0b1001001000100000 ++ bytesOfWord 0b0000000100100011) = .ok (.sts 0x0123 2, []) ∧
  decode (bytesOfWord 0b1010111000010111) = .ok (.stdZ 63 1, []) ∧
  decode (bytesOfWord 0b1011111100001101) = .ok (.ioOut 0x3D 16, []) ∧
  decode (bytesOfWord 0b1001010001100101) = .ok (.asr 6, []) ∧
  decode (bytesOfWord 0b1001000110000101) = .ok (.lpmInc 24, [])

/-- R114: the length test on the first word gives the length of every form. -/
def Obligations.LengthTestGivesTheLength : Prop :=
  ∀ (i : Instr) (w : Word), (encodeWords i).head? = some w →
    (encodeWords i).length = (if w &&& 0xFE0C = 0x940C ∨ w &&& 0xFC0F = 0x9000 then 2 else 1) ∧
      i.words = (encodeWords i).length

/-! ## The step -/

/-- R305, R68: where no interrupt is due, pc is inside program memory and the bytes at pc decode to `i`, the step is the
meaning of `i`, with `irq_hold` cleared before it and this boundary's requests passed. -/
def Obligations.StepRunsTheDecodedInstruction : Prop :=
  ∀ (s : State) (i : Instr) (rest : List Byte),
    s.dueInterrupt = none → s.pc.toNat < s.cfg.flashWords → decode (fetchBytes s) = .ok (i, rest) →
      step s = exec i { s with requests := s.requests.tail, irqHold := false }

/-- R68, R101, R117: an instruction whose words stand in program memory from pc on is the instruction the step runs (a
second spelling runs as the form it stands for). -/
def Obligations.PlacedInstructionIsTheOneRun : Prop :=
  ∀ (s : State) (i : Instr),
    s.cfg.wf = true → s.dueInterrupt = none → s.pc.toNat + i.words ≤ s.cfg.flashWords →
    (∀ n w, (encodeWords i)[n]? = some w → s.rawFlashWord (s.pc + BitVec.ofNat 16 n) = w) →
      step s = exec i.core { s with requests := s.requests.tail, irqHold := false }

/-- R27, R68, R118: where no interrupt is due, a step has no next state when pc is above FLASHEND, when no row matches the
word at pc, and when the second word of a two-word instruction lies above FLASHEND.  The spec calls all three refused; that
a fetch above FLASHEND is a fault and the unmatched word a refusal is the model's split (log 8, DESIGN CHOICE). -/
def Obligations.FetchStopsOutsideFlashAndExcerpt : Prop :=
  ∀ s : State, s.dueInterrupt = none →
    (s.cfg.flashWords ≤ s.pc.toNat → step s = .fault (.fetchOutsideFlash s.pc)) ∧
    (s.pc.toNat < s.cfg.flashWords → (∀ r ∈ rows, s.rawFlashWord s.pc &&& r.mask ≠ r.pattern) →
      step s = .refused (.wordNotInExcerpt (s.rawFlashWord s.pc))) ∧
    (s.pc.toNat < s.cfg.flashWords →
      (s.rawFlashWord s.pc &&& 0xFE0C = 0x940C ∨ s.rawFlashWord s.pc &&& 0xFC0F = 0x9000) →
      s.cfg.flashWords ≤ s.secondPc.toNat → step s = .fault (.fetchOutsideFlash s.secondPc))

/-! ## Flags -/

/-- R40: `flags_add`, its Boolean equations and its arithmetic reading: H is the carry out of bit 3, C out of bit 7, V the
signed sum out of range, N bit 7 of the result, Z the zero result, S = N xor V; I and T are kept; ADD, ADC, LSL and ROL
write its result and its flags. -/
def Obligations.FlagsAddFollowTheSum : Prop :=
  (∀ (x a b : Byte) (c : Bool),
    let f := flagsAdd x a b c
    let R := addResult a b c
    R.toNat = (a.toNat + b.toNat + c.toNat) % 256 ∧
    flagH f = ((a[3] && b[3]) || (b[3] && !R[3]) || (!R[3] && a[3])) ∧
    (flagH f = true ↔ 15 < a.toNat % 16 + b.toNat % 16 + c.toNat) ∧
    flagC f = ((a[7] && b[7]) || (b[7] && !R[7]) || (!R[7] && a[7])) ∧
    (flagC f = true ↔ 255 < a.toNat + b.toNat + c.toNat) ∧
    flagV f = ((a[7] && b[7] && !R[7]) || (!a[7] && !b[7] && R[7])) ∧
    (flagV f = true ↔ a.toInt + b.toInt + c.toNat < -128 ∨ 127 < a.toInt + b.toInt + c.toNat) ∧
    flagN f = R[7] ∧ (flagZ f = true ↔ R = 0) ∧ flagS f = (flagN f ^^ flagV f) ∧ upperFlagsKept x f) ∧
  ∀ (s : State) (d r : Reg),
    GivesRegAndFlags (.add d r) s d (addResult (s.reg d) (s.reg r) false)
      (flagsAdd s.sreg (s.reg d) (s.reg r) false) ∧
    GivesRegAndFlags (.adc d r) s d (addResult (s.reg d) (s.reg r) (flagC s.sreg))
      (flagsAdd s.sreg (s.reg d) (s.reg r) (flagC s.sreg)) ∧
    GivesRegAndFlags (.lsl d) s d (addResult (s.reg d) (s.reg d) false)
      (flagsAdd s.sreg (s.reg d) (s.reg d) false) ∧
    GivesRegAndFlags (.rol d) s d (addResult (s.reg d) (s.reg d) (flagC s.sreg))
      (flagsAdd s.sreg (s.reg d) (s.reg d) (flagC s.sreg))

/-- R41: `flags_sub`, its Boolean equations and its arithmetic reading; with `keepZ` Z can only be kept or cleared; SUB,
SUBI, SBC, SBCI and NEG write its result and its flags, CP, CPC and CPI its flags; `keepZ` is true for SBC, SBCI, CPC. -/
def Obligations.FlagsSubFollowTheDifference : Prop :=
  (∀ (x a b : Byte) (c keepZ : Bool),
    let f := flagsSub x a b c keepZ
    let R := subResult a b c
    (R.toNat : Int) = ((a.toNat : Int) - b.toNat - c.toNat) % 256 ∧
    flagH f = ((!a[3] && b[3]) || (b[3] && R[3]) || (R[3] && !a[3])) ∧
    (flagH f = true ↔ a.toNat % 16 < b.toNat % 16 + c.toNat) ∧
    flagC f = ((!a[7] && b[7]) || (b[7] && R[7]) || (R[7] && !a[7])) ∧
    (flagC f = true ↔ a.toNat < b.toNat + c.toNat) ∧
    flagV f = ((a[7] && !b[7] && !R[7]) || (!a[7] && b[7] && R[7])) ∧
    (flagV f = true ↔ a.toInt - b.toInt - c.toNat < -128 ∨ 127 < a.toInt - b.toInt - c.toNat) ∧
    flagN f = R[7] ∧
    (flagZ f = true ↔ R = 0 ∧ (keepZ = true → flagZ x = true)) ∧
    flagS f = (flagN f ^^ flagV f) ∧ upperFlagsKept x f) ∧
  ∀ (s : State) (d r : Reg) (h : HighReg) (k : Byte),
    let H := highReg h
    GivesRegAndFlags (.sub d r) s d (subResult (s.reg d) (s.reg r) false)
      (flagsSub s.sreg (s.reg d) (s.reg r) false false) ∧
    GivesRegAndFlags (.subi h k) s H (subResult (s.reg H) k false) (flagsSub s.sreg (s.reg H) k false false) ∧
    GivesRegAndFlags (.sbc d r) s d (subResult (s.reg d) (s.reg r) (flagC s.sreg))
      (flagsSub s.sreg (s.reg d) (s.reg r) (flagC s.sreg) true) ∧
    GivesRegAndFlags (.sbci h k) s H (subResult (s.reg H) k (flagC s.sreg))
      (flagsSub s.sreg (s.reg H) k (flagC s.sreg) true) ∧
    GivesRegAndFlags (.neg d) s d (subResult 0 (s.reg d) false) (flagsSub s.sreg 0 (s.reg d) false false) ∧
    Completes (.cp d r) s (fun t => t.sreg = flagsSub s.sreg (s.reg d) (s.reg r) false false) ∧
    Completes (.cpc d r) s (fun t => t.sreg = flagsSub s.sreg (s.reg d) (s.reg r) (flagC s.sreg) true) ∧
    Completes (.cpi h k) s (fun t => t.sreg = flagsSub s.sreg (s.reg H) k false false)

/-- R42, R43, R44: `flags_logic`, `flags_shr` and `flags_incdec`, flag by flag, every flag a function does not name kept;
and the instructions that use each: AND, ANDI, OR, ORI, EOR, COM (which also sets C), CLR, TST; LSR, ROR, ASR; INC, DEC. -/
def Obligations.FlagsLogicShiftAndCount : Prop :=
  (∀ (x a R : Byte) (vcond : Bool),
    (let f := flagsLogic x R
     flagV f = false ∧ flagN f = R[7] ∧ (flagZ f = true ↔ R = 0) ∧ flagS f = (flagN f ^^ flagV f) ∧
       flagS f = flagN f ∧ flagC f = flagC x ∧ flagH f = flagH x ∧ upperFlagsKept x f) ∧
    (let f := flagsShr x a R
     flagC f = a[0] ∧ flagN f = R[7] ∧ (flagZ f = true ↔ R = 0) ∧ flagV f = (flagN f ^^ flagC f) ∧
       flagS f = (flagN f ^^ flagV f) ∧ flagS f = flagC f ∧ flagH f = flagH x ∧ upperFlagsKept x f) ∧
    (let f := flagsIncDec x R vcond
     flagV f = vcond ∧ flagN f = R[7] ∧ (flagZ f = true ↔ R = 0) ∧ flagS f = (flagN f ^^ flagV f) ∧
       flagC f = flagC x ∧ flagH f = flagH x ∧ upperFlagsKept x f)) ∧
  ∀ (s : State) (d r : Reg) (h : HighReg) (k : Byte),
    (∀ p ∈ [(Instr.and d r, d), (.andi h k, highReg h), (.or d r, d), (.ori h k, highReg h), (.eor d r, d),
        (.clr d, d), (.tst d, d)], Completes p.1 s (fun t => t.sreg = flagsLogic s.sreg (t.reg p.2))) ∧
    Completes (.com d) s (fun t => t.sreg = flagsLogic s.sreg (t.reg d) ||| 0x01) ∧
    (∀ i ∈ [Instr.lsr d, .ror d, .asr d], Completes i s (fun t => t.sreg = flagsShr s.sreg (s.reg d) (t.reg d))) ∧
    Completes (.inc d) s (fun t => t.sreg = flagsIncDec s.sreg (t.reg d) (decide (t.reg d = 0x80)) ∧
      (t.reg d = 0x80 ↔ s.reg d = 0x7F)) ∧
    Completes (.dec d) s (fun t => t.sreg = flagsIncDec s.sreg (t.reg d) (decide (t.reg d = 0x7F)) ∧
      (t.reg d = 0x7F ↔ s.reg d = 0x80))

/-! ## Arithmetic, logic, shifts -/

/-- R141, R142, R270, R272: ADD, ADC, LSL and ROL write the sum and its flags, and nothing else. -/
def Obligations.AdditionsWriteTheSumAndItsFlags : Prop :=
  ∀ (s : State) (d r : Reg), s.cfg.pcBits ≤ 16 →
    WritesRegAndFlags (.add d r) s d (s.reg d + s.reg r) (flagsAdd s.sreg (s.reg d) (s.reg r) false) ∧
    WritesRegAndFlags (.adc d r) s d (s.reg d + s.reg r + BitVec.ofNat 8 (flagC s.sreg).toNat)
      (flagsAdd s.sreg (s.reg d) (s.reg r) (flagC s.sreg)) ∧
    WritesRegAndFlags (.lsl d) s d (s.reg d <<< 1) (flagsAdd s.sreg (s.reg d) (s.reg d) false) ∧
    WritesRegAndFlags (.rol d) s d ((s.reg d <<< 1) ||| BitVec.ofNat 8 (flagC s.sreg).toNat)
      (flagsAdd s.sreg (s.reg d) (s.reg d) (flagC s.sreg))

/-- R143 to R146, R149: SUB, SUBI, SBC, SBCI and NEG write the difference and its flags, and nothing else; the constant
forms name R16 to R31. -/
def Obligations.SubtractionsWriteTheDifferenceAndItsFlags : Prop :=
  ∀ (s : State) (d r : Reg) (h : HighReg) (k : Byte), s.cfg.pcBits ≤ 16 →
    (highReg h).toNat = 16 + h.toNat ∧
    WritesRegAndFlags (.sub d r) s d (s.reg d - s.reg r) (flagsSub s.sreg (s.reg d) (s.reg r) false false) ∧
    WritesRegAndFlags (.subi h k) s (highReg h) (s.reg (highReg h) - k)
      (flagsSub s.sreg (s.reg (highReg h)) k false false) ∧
    WritesRegAndFlags (.sbc d r) s d (s.reg d - s.reg r - BitVec.ofNat 8 (flagC s.sreg).toNat)
      (flagsSub s.sreg (s.reg d) (s.reg r) (flagC s.sreg) true) ∧
    WritesRegAndFlags (.sbci h k) s (highReg h) (s.reg (highReg h) - k - BitVec.ofNat 8 (flagC s.sreg).toNat)
      (flagsSub s.sreg (s.reg (highReg h)) k (flagC s.sreg) true) ∧
    WritesRegAndFlags (.neg d) s d (-(s.reg d)) (flagsSub s.sreg 0 (s.reg d) false false)

/-- R149: after NEG, C says the result is not zero, V that it is 0x80, H that the low half of the operand was not zero. -/
def Obligations.NegFlagsSpelledOut : Prop :=
  ∀ (x a : Byte),
    let f := flagsSub x 0 a false false
    (flagC f = true ↔ -a ≠ 0) ∧ (flagV f = true ↔ -a = 0x80) ∧ (flagH f = true ↔ a.toNat % 16 ≠ 0)

/-- R147, R148: INC and DEC count by one modulo 256, V at the 0x7F/0x80 boundary, C and H kept. -/
def Obligations.IncAndDecCountByOne : Prop :=
  ∀ (s : State) (d : Reg), s.cfg.pcBits ≤ 16 →
    WritesRegAndFlags (.inc d) s d (s.reg d + 1)
      (flagsIncDec s.sreg (s.reg d + 1) (decide ((s.reg d).toInt + 1 > 127))) ∧
    WritesRegAndFlags (.dec d) s d (s.reg d - 1)
      (flagsIncDec s.sreg (s.reg d - 1) (decide ((s.reg d).toInt - 1 < -128)))

/-- R150 to R156: AND, ANDI, OR, ORI, EOR write the bitwise result and `flags_logic` of it; COM the complement, with C set;
CLR zero, with Z set and S, V, N cleared.  Nothing else changes. -/
def Obligations.LogicWritesTheBitwiseResult : Prop :=
  ∀ (s : State) (d r : Reg) (h : HighReg) (k : Byte), s.cfg.pcBits ≤ 16 →
    WritesRegAndFlags (.and d r) s d (s.reg d &&& s.reg r) (flagsLogic s.sreg (s.reg d &&& s.reg r)) ∧
    WritesRegAndFlags (.andi h k) s (highReg h) (s.reg (highReg h) &&& k)
      (flagsLogic s.sreg (s.reg (highReg h) &&& k)) ∧
    WritesRegAndFlags (.or d r) s d (s.reg d ||| s.reg r) (flagsLogic s.sreg (s.reg d ||| s.reg r)) ∧
    WritesRegAndFlags (.ori h k) s (highReg h) (s.reg (highReg h) ||| k)
      (flagsLogic s.sreg (s.reg (highReg h) ||| k)) ∧
    WritesRegAndFlags (.eor d r) s d (s.reg d ^^^ s.reg r) (flagsLogic s.sreg (s.reg d ^^^ s.reg r)) ∧
    WritesRegAndFlags (.com d) s d (~~~(s.reg d)) (flagsLogic s.sreg (~~~(s.reg d)) ||| 0x01) ∧
    WritesRegAndFlags (.clr d) s d 0x00 ((s.sreg &&& 0xE1) ||| 0x02)

/-- R271, R273, R274: LSR halves the unsigned value, ROR halves it and puts the old C at bit 7, ASR halves the signed value
toward minus infinity; the flags are `flags_shr`, nothing else changes.  (That the right shifts write S: R275, D13, log 15.) -/
def Obligations.RightShiftsHalve : Prop :=
  ∀ (s : State) (d : Reg), s.cfg.pcBits ≤ 16 →
    (∃ v : Byte, v.toNat = (s.reg d).toNat / 2 ∧
      WritesRegAndFlags (.lsr d) s d v (flagsShr s.sreg (s.reg d) v)) ∧
    (∃ v : Byte, v.toNat = 128 * (flagC s.sreg).toNat + (s.reg d).toNat / 2 ∧
      WritesRegAndFlags (.ror d) s d v (flagsShr s.sreg (s.reg d) v)) ∧
    (∃ v : Byte, v.toInt = (s.reg d).toInt / 2 ∧
      WritesRegAndFlags (.asr d) s d v (flagsShr s.sreg (s.reg d) v))

/-- R159: the same register as source and destination, form by form. -/
def Obligations.SameRegisterForms : Prop :=
  ∀ (s : State) (d : Reg), s.cfg.pcBits ≤ 16 →
    exec (.add d d) s = exec (.lsl d) s ∧ exec (.adc d d) s = exec (.rol d) s ∧
    WritesRegAndFlags (.sub d d) s d 0x00 ((s.sreg &&& 0xC0) ||| 0x02) ∧
    WritesRegAndFlags (.sbc d d) s d (if flagC s.sreg then 0xFF else 0x00)
      (flagsSub s.sreg 0 0 (flagC s.sreg) true) ∧
    exec (.and d d) s = exec (.tst d) s ∧
    WritesFlagsOnly (.or d d) s (flagsLogic s.sreg (s.reg d)) ∧
    exec (.eor d d) s = exec (.clr d) s ∧
    WritesFlagsOnly (.mov d d) s s.sreg ∧
    WritesFlagsOnly (.cp d d) s ((s.sreg &&& 0xC0) ||| 0x02) ∧
    WritesFlagsOnly (.cpc d d) s (flagsSub s.sreg 0 0 (flagC s.sreg) true)

/-- R158, R141, R142: ADD on the low bytes then ADC on the high bytes adds two 16-bit numbers modulo 65536, and C tells the
overflow. -/
def Obligations.AddThenAdcAddsSixteenBits : Prop :=
  ∀ (s : State) (dl rl dh rh : Reg), dl ≠ dh → dl ≠ rh →
    ∃ t u, exec (.add dl rl) s = .next t ∧ exec (.adc dh rh) t = .next u ∧
      (u.reg dh).toNat * 256 + (u.reg dl).toNat =
        ((s.reg dh).toNat * 256 + (s.reg dl).toNat + ((s.reg rh).toNat * 256 + (s.reg rl).toNat)) % 65536 ∧
      (flagC u.sreg = true ↔
        65535 < (s.reg dh).toNat * 256 + (s.reg dl).toNat + ((s.reg rh).toNat * 256 + (s.reg rl).toNat))

/-! ## Compares -/

/-- R187 to R190: CP, CPC, CPI and TST write SREG as SUB, SBC, SUBI and AND would, and nothing else. -/
def Obligations.ComparesWriteFlagsOnly : Prop :=
  ∀ (s : State) (d r : Reg) (h : HighReg) (k : Byte), s.cfg.pcBits ≤ 16 →
    WritesFlagsOnly (.cp d r) s (flagsSub s.sreg (s.reg d) (s.reg r) false false) ∧
    WritesFlagsOnly (.cpc d r) s (flagsSub s.sreg (s.reg d) (s.reg r) (flagC s.sreg) true) ∧
    WritesFlagsOnly (.cpi h k) s (flagsSub s.sreg (s.reg (highReg h)) k false false) ∧
    WritesFlagsOnly (.tst d) s (flagsLogic s.sreg (s.reg d))

/-- R187, R189: after CP and CPI, Z says equal, C says lower unsigned, S says lower signed. -/
def Obligations.CompareDecidesTheOrder : Prop :=
  ∀ (s : State) (d r : Reg) (h : HighReg) (k : Byte),
    Completes (.cp d r) s (fun t =>
      (flagZ t.sreg = true ↔ s.reg d = s.reg r) ∧ (flagC t.sreg = true ↔ (s.reg d).toNat < (s.reg r).toNat) ∧
      (flagS t.sreg = true ↔ (s.reg d).toInt < (s.reg r).toInt)) ∧
    Completes (.cpi h k) s (fun t =>
      (flagZ t.sreg = true ↔ s.reg (highReg h) = k) ∧
      (flagC t.sreg = true ↔ (s.reg (highReg h)).toNat < k.toNat) ∧
      (flagS t.sreg = true ↔ (s.reg (highReg h)).toInt < k.toInt))

/-- R188: CP on the low bytes then CPC on the high bytes compares two 16-bit numbers: Z says equal, C says lower unsigned. -/
def Obligations.CpThenCpcComparesSixteenBits : Prop :=
  ∀ (s : State) (dl rl dh rh : Reg),
    ∃ t u, exec (.cp dl rl) s = .next t ∧ exec (.cpc dh rh) t = .next u ∧
      (flagZ u.sreg = true ↔
        (s.reg dh).toNat * 256 + (s.reg dl).toNat = (s.reg rh).toNat * 256 + (s.reg rl).toNat) ∧
      (flagC u.sreg = true ↔
        (s.reg dh).toNat * 256 + (s.reg dl).toNat < (s.reg rh).toNat * 256 + (s.reg rl).toNat)

/-! ## Jumps, branches, calls, returns -/

/-- R181, R182: RJMP goes to `pc + k + 1`, JMP to `k` below `2^PC_BITS`; nothing else changes. -/
def Obligations.JumpsSetThePcOnly : Prop :=
  ∀ (s : State) (k : BitVec 12) (a : BitVec 22), s.cfg.pcBits ≤ 16 →
    Completes (.rjmp k) s (fun t =>
      pcJumps s t k.toInt ∧ t.sreg = s.sreg ∧ regsKept s t [] ∧ restKept s t) ∧
    (a.toNat < 2 ^ s.cfg.pcBits → Completes (.jmp a) s (fun t =>
      t.pc.toNat = a.toNat ∧ t.sreg = s.sreg ∧ regsKept s t [] ∧ restKept s t))

/-- R108, R182, R184: JMP and CALL to `2^PC_BITS` or above are refused. -/
def Obligations.TargetOutsidePcBitsIsRefused : Prop :=
  ∀ (s : State) (k : BitVec 22), 2 ^ s.cfg.pcBits ≤ k.toNat →
    exec (.jmp k) s = .refused (.jumpTargetOutsidePcBits k) ∧
    exec (.call k) s = .refused (.jumpTargetOutsidePcBits k)

/-- R191 to R198: each branch tests one flag, goes to `pc + k + 1` when its condition holds and to `pc + 1` when not, and
changes nothing else. -/
def Obligations.BranchesTestOneFlag : Prop :=
  ∀ (s : State) (b : BitVec 3) (k : BitVec 7), s.cfg.pcBits ≤ 16 →
    BranchesOn (.brbs b k) s (s.sreg.getLsbD b.toNat) k ∧ BranchesOn (.brbc b k) s (!s.sreg.getLsbD b.toNat) k ∧
    BranchesOn (.breq k) s (s.sreg.getLsbD 1) k ∧ BranchesOn (.brne k) s (!s.sreg.getLsbD 1) k ∧
    BranchesOn (.brcs k) s (s.sreg.getLsbD 0) k ∧ BranchesOn (.brcc k) s (!s.sreg.getLsbD 0) k ∧
    BranchesOn (.brsh k) s (!s.sreg.getLsbD 0) k ∧ BranchesOn (.brlo k) s (s.sreg.getLsbD 0) k

/-- R183, R184, R71: RCALL and CALL push the address of the instruction after them, low byte at SP, high byte below it, and
go to their target; where both stack bytes are RAM.  (Every other stack address: StackInstructionsFollowTheirPseudocode.) -/
def Obligations.CallsPushTheReturnAddress : Prop :=
  ∀ (s : State) (k : BitVec 12) (a : BitVec 22), s.cfg.pcBits ≤ 16 → stackRoom s →
    Completes (.rcall k) s (fun t =>
      pushedAddress s t ((s.pc.toNat + 1) % 2 ^ s.cfg.pcBits) ∧ pcJumps s t k.toInt ∧ t.sreg = s.sreg ∧
        regsKept s t [] ∧ latchesKept s t ∧ t.irqHold = s.irqHold ∧ t.draws = s.draws ∧ givenKept s t) ∧
    (a.toNat < 2 ^ s.cfg.pcBits → Completes (.call a) s (fun t =>
      pushedAddress s t ((s.pc.toNat + 2) % 2 ^ s.cfg.pcBits) ∧ t.pc.toNat = a.toNat ∧ t.sreg = s.sreg ∧
        regsKept s t [] ∧ latchesKept s t ∧ t.irqHold = s.irqHold ∧ t.draws = s.draws ∧ givenKept s t))

/-- R185, R186: RET and RETI pop the high byte from SP + 1 and then the low byte from SP + 2, SP goes up by two, the pc is
the popped address modulo 2^PC_BITS; RETI also sets I and `irq_hold`; where both bytes are RAM.  Nothing else changes.  A
byte that nothing has written gives a free value (the model's choice, log 4). -/
def Obligations.ReturnsPopTheAddress : Prop :=
  ∀ (s : State) (hi lo : Byte), s.cfg.pcBits ≤ 16 → stackHolds s → hi = ramValue s (s.sp + 1) →
    lo = ramValue { s with draws := s.draws + ramDraws s (s.sp + 1) } (s.sp + 2) →
    Completes .ret s (fun t =>
      t.pc.toNat = (hi.toNat * 256 + lo.toNat) % 2 ^ s.cfg.pcBits ∧ t.sp = s.sp + 2 ∧ t.sreg = s.sreg ∧
        regsKept s t [] ∧ ramKept s t ∧ latchesKept s t ∧ t.irqHold = s.irqHold ∧
        t.draws = s.draws + ramDraws s (s.sp + 1) + ramDraws s (s.sp + 2) ∧ givenKept s t) ∧
    Completes .reti s (fun t =>
      t.pc.toNat = (hi.toNat * 256 + lo.toNat) % 2 ^ s.cfg.pcBits ∧ t.sp = s.sp + 2 ∧ t.sreg = s.sreg ||| 0x80 ∧
        regsKept s t [] ∧ ramKept s t ∧ latchesKept s t ∧ t.irqHold = true ∧
        t.draws = s.draws + ramDraws s (s.sp + 1) + ramDraws s (s.sp + 2) ∧ givenKept s t)

/-- R199, R183, R184, R185: a call followed by RET comes back to the instruction after the call with SP as it was. -/
def Obligations.CallThenRetComesBack : Prop :=
  ∀ (s : State) (k : BitVec 12) (a : BitVec 22), s.cfg.pcBits ≤ 16 → stackRoom s →
    (∃ t u, exec (.rcall k) s = .next t ∧ exec .ret t = .next u ∧ pcSteps s u 1 ∧ u.sp = s.sp ∧
      u.sreg = s.sreg ∧ regsKept s u [] ∧ ramKeptBut s u [s.sp.toNat, (s.sp - 1).toNat]) ∧
    (a.toNat < 2 ^ s.cfg.pcBits →
      ∃ t u, exec (.call a) s = .next t ∧ exec .ret t = .next u ∧ pcSteps s u 2 ∧ u.sp = s.sp ∧
        u.sreg = s.sreg ∧ regsKept s u [] ∧ ramKeptBut s u [s.sp.toNat, (s.sp - 1).toNat])

/-! ## Second spellings -/

/-- R116: the fifteen second spellings, each with the form it stands for: the same words, the same meaning; there is no
other. -/
def Obligations.SecondSpellingsMeanTheirBaseForm : Prop :=
  (∀ (d : Reg) (h : HighReg) (k : BitVec 7), ∀ p ∈ secondSpellings d h k,
    encode p.1 = encode p.2 ∧ p.1.core = p.2 ∧ ∀ s : State, exec p.1 s = exec p.2 s) ∧
  (∀ d h k, (secondSpellings d h k).length = 15) ∧
  ∀ i : Instr, i.core ≠ i → ∃ d h k, (i, i.core) ∈ secondSpellings d h k

/-! ## Data transfer -/

/-- R220, R221, R157: MOV copies Rr, LDI loads K, SER loads 0xFF into R16 to R31; no flag and nothing else changes. -/
def Obligations.MovesWriteOneRegister : Prop :=
  ∀ (s : State) (d r : Reg) (h : HighReg) (k : Byte), s.cfg.pcBits ≤ 16 →
    WritesRegAndFlags (.mov d r) s d (s.reg r) s.sreg ∧
    WritesRegAndFlags (.ldi h k) s (highReg h) k s.sreg ∧
    WritesRegAndFlags (.ser h) s (highReg h) 0xFF s.sreg

/-- R23: a pointer pair is two registers, the higher-numbered one more significant; writing a pair writes those two
registers and no other. -/
def Obligations.PointerPairIsTwoRegisters : Prop :=
  ∀ (s : State) (v : Word),
    (s.pair .x).toNat = (s.reg 27).toNat * 256 + (s.reg 26).toNat ∧
    (s.pair .y).toNat = (s.reg 29).toNat * 256 + (s.reg 28).toNat ∧
    (s.pair .z).toNat = (s.reg 31).toNat * 256 + (s.reg 30).toNat ∧
    (∀ p : Pointer, (s.setPair p v).pair p = v ∧ regsKept s (s.setPair p v) [p.low, p.high])

/-- R222 to R233, R251: each load form, where its effective address is RAM, loads that byte into Rd, updates its pointer as
its mode says, and changes nothing else.  A byte that nothing has written gives a free value (the model's choice, log 4). -/
def Obligations.LoadFormsReadRam : Prop :=
  ∀ (s : State) (d : Reg) (k : Word) (q : BitVec 6), s.cfg.pcBits ≤ 16 →
    (16 ≤ d.toNat → isRam s.cfg k → LoadsFromRam (.lds d k) s d k none 2) ∧
    (isRam s.cfg (s.pair .x) → LoadsFromRam (.ldX d) s d (s.pair .x) none 1) ∧
    (isRam s.cfg (s.pair .y) → LoadsFromRam (.ldY d) s d (s.pair .y) none 1) ∧
    (isRam s.cfg (s.pair .z) → LoadsFromRam (.ldZ d) s d (s.pair .z) none 1) ∧
    (isRam s.cfg (s.pair .y + q.setWidth 16) →
      LoadsFromRam (.lddY d q) s d (s.pair .y + q.setWidth 16) none 1) ∧
    (isRam s.cfg (s.pair .z + q.setWidth 16) →
      LoadsFromRam (.lddZ d q) s d (s.pair .z + q.setWidth 16) none 1) ∧
    (d ≠ 26 → d ≠ 27 →
      (isRam s.cfg (s.pair .x) → LoadsFromRam (.ldXInc d) s d (s.pair .x) (some (.x, s.pair .x + 1)) 1) ∧
      (isRam s.cfg (s.pair .x - 1) →
        LoadsFromRam (.ldXDec d) s d (s.pair .x - 1) (some (.x, s.pair .x - 1)) 1)) ∧
    (d ≠ 28 → d ≠ 29 →
      (isRam s.cfg (s.pair .y) → LoadsFromRam (.ldYInc d) s d (s.pair .y) (some (.y, s.pair .y + 1)) 1) ∧
      (isRam s.cfg (s.pair .y - 1) →
        LoadsFromRam (.ldYDec d) s d (s.pair .y - 1) (some (.y, s.pair .y - 1)) 1)) ∧
    (d ≠ 30 → d ≠ 31 →
      (isRam s.cfg (s.pair .z) → LoadsFromRam (.ldZInc d) s d (s.pair .z) (some (.z, s.pair .z + 1)) 1) ∧
      (isRam s.cfg (s.pair .z - 1) →
        LoadsFromRam (.ldZDec d) s d (s.pair .z - 1) (some (.z, s.pair .z - 1)) 1))

/-- R234 to R245, R251: each store form, where its effective address is RAM, stores R[r] there, updates its pointer as its
mode says, and changes nothing else. -/
def Obligations.StoreFormsWriteRam : Prop :=
  ∀ (s : State) (r : Reg) (k : Word) (q : BitVec 6), s.cfg.pcBits ≤ 16 →
    (isRam s.cfg k → StoresToRam (.sts k r) s r k none 2) ∧
    (isRam s.cfg (s.pair .x) → StoresToRam (.stX r) s r (s.pair .x) none 1) ∧
    (isRam s.cfg (s.pair .y) → StoresToRam (.stY r) s r (s.pair .y) none 1) ∧
    (isRam s.cfg (s.pair .z) → StoresToRam (.stZ r) s r (s.pair .z) none 1) ∧
    (isRam s.cfg (s.pair .y + q.setWidth 16) →
      StoresToRam (.stdY q r) s r (s.pair .y + q.setWidth 16) none 1) ∧
    (isRam s.cfg (s.pair .z + q.setWidth 16) →
      StoresToRam (.stdZ q r) s r (s.pair .z + q.setWidth 16) none 1) ∧
    (r ≠ 26 → r ≠ 27 →
      (isRam s.cfg (s.pair .x) → StoresToRam (.stXInc r) s r (s.pair .x) (some (.x, s.pair .x + 1)) 1) ∧
      (isRam s.cfg (s.pair .x - 1) →
        StoresToRam (.stXDec r) s r (s.pair .x - 1) (some (.x, s.pair .x - 1)) 1)) ∧
    (r ≠ 28 → r ≠ 29 →
      (isRam s.cfg (s.pair .y) → StoresToRam (.stYInc r) s r (s.pair .y) (some (.y, s.pair .y + 1)) 1) ∧
      (isRam s.cfg (s.pair .y - 1) →
        StoresToRam (.stYDec r) s r (s.pair .y - 1) (some (.y, s.pair .y - 1)) 1)) ∧
    (r ≠ 30 → r ≠ 31 →
      (isRam s.cfg (s.pair .z) → StoresToRam (.stZInc r) s r (s.pair .z) (some (.z, s.pair .z + 1)) 1) ∧
      (isRam s.cfg (s.pair .z - 1) →
        StoresToRam (.stZDec r) s r (s.pair .z - 1) (some (.z, s.pair .z - 1)) 1))

/-- R222 to R233: every load form at EVERY effective address (register file, I/O space, RAM or nothing) is `MemRead` at
that address, then the write of Rd and the pointer update, in the order of its pseudocode. -/
def Obligations.LoadFormsFollowTheirPseudocode : Prop :=
  ∀ (s : State) (d : Reg) (k : Word) (q : BitVec 6),
    (16 ≤ d.toNat → exec (.lds d k) s = andThen (memRead k s) fun x => .next ((x.2.setReg d x.1).advance 2)) ∧
    exec (.ldX d) s = (andThen (memRead (s.pair .x) s) fun x => .next ((x.2.setReg d x.1).advance 1)) ∧
    exec (.ldY d) s = (andThen (memRead (s.pair .y) s) fun x => .next ((x.2.setReg d x.1).advance 1)) ∧
    exec (.ldZ d) s = (andThen (memRead (s.pair .z) s) fun x => .next ((x.2.setReg d x.1).advance 1)) ∧
    exec (.lddY d q) s =
      (andThen (memRead (s.pair .y + q.setWidth 16) s) fun x => .next ((x.2.setReg d x.1).advance 1)) ∧
    exec (.lddZ d q) s =
      (andThen (memRead (s.pair .z + q.setWidth 16) s) fun x => .next ((x.2.setReg d x.1).advance 1)) ∧
    (d ≠ 26 → d ≠ 27 →
      exec (.ldXInc d) s = (andThen (memRead (s.pair .x) s) fun x =>
        .next (((x.2.setReg d x.1).setPair .x (s.pair .x + 1)).advance 1)) ∧
      exec (.ldXDec d) s = (andThen (memRead (s.pair .x - 1) (s.setPair .x (s.pair .x - 1))) fun x =>
        .next ((x.2.setReg d x.1).advance 1))) ∧
    (d ≠ 28 → d ≠ 29 →
      exec (.ldYInc d) s = (andThen (memRead (s.pair .y) s) fun x =>
        .next (((x.2.setReg d x.1).setPair .y (s.pair .y + 1)).advance 1)) ∧
      exec (.ldYDec d) s = (andThen (memRead (s.pair .y - 1) (s.setPair .y (s.pair .y - 1))) fun x =>
        .next ((x.2.setReg d x.1).advance 1))) ∧
    (d ≠ 30 → d ≠ 31 →
      exec (.ldZInc d) s = (andThen (memRead (s.pair .z) s) fun x =>
        .next (((x.2.setReg d x.1).setPair .z (s.pair .z + 1)).advance 1)) ∧
      exec (.ldZDec d) s = (andThen (memRead (s.pair .z - 1) (s.setPair .z (s.pair .z - 1))) fun x =>
        .next ((x.2.setReg d x.1).advance 1)))

/-- R234 to R245: every store form at EVERY effective address (register file, I/O space, RAM or nothing) is `MemWrite` of
R[r] at that address, with the pointer update where its pseudocode puts it. -/
def Obligations.StoreFormsFollowTheirPseudocode : Prop :=
  ∀ (s : State) (r : Reg) (k : Word) (q : BitVec 6),
    exec (.sts k r) s = (andThen (memWrite k (s.reg r) s) fun t => .next (t.advance 2)) ∧
    exec (.stX r) s = (andThen (memWrite (s.pair .x) (s.reg r) s) fun t => .next (t.advance 1)) ∧
    exec (.stY r) s = (andThen (memWrite (s.pair .y) (s.reg r) s) fun t => .next (t.advance 1)) ∧
    exec (.stZ r) s = (andThen (memWrite (s.pair .z) (s.reg r) s) fun t => .next (t.advance 1)) ∧
    exec (.stdY q r) s =
      (andThen (memWrite (s.pair .y + q.setWidth 16) (s.reg r) s) fun t => .next (t.advance 1)) ∧
    exec (.stdZ q r) s =
      (andThen (memWrite (s.pair .z + q.setWidth 16) (s.reg r) s) fun t => .next (t.advance 1)) ∧
    (r ≠ 26 → r ≠ 27 →
      exec (.stXInc r) s = (andThen (memWrite (s.pair .x) (s.reg r) s) fun t =>
        .next ((t.setPair .x (s.pair .x + 1)).advance 1)) ∧
      exec (.stXDec r) s = (andThen (memWrite (s.pair .x - 1) (s.reg r) (s.setPair .x (s.pair .x - 1))) fun t =>
        .next (t.advance 1))) ∧
    (r ≠ 28 → r ≠ 29 →
      exec (.stYInc r) s = (andThen (memWrite (s.pair .y) (s.reg r) s) fun t =>
        .next ((t.setPair .y (s.pair .y + 1)).advance 1)) ∧
      exec (.stYDec r) s = (andThen (memWrite (s.pair .y - 1) (s.reg r) (s.setPair .y (s.pair .y - 1))) fun t =>
        .next (t.advance 1))) ∧
    (r ≠ 30 → r ≠ 31 →
      exec (.stZInc r) s = (andThen (memWrite (s.pair .z) (s.reg r) s) fun t =>
        .next ((t.setPair .z (s.pair .z + 1)).advance 1)) ∧
      exec (.stZDec r) s = (andThen (memWrite (s.pair .z - 1) (s.reg r) (s.setPair .z (s.pair .z - 1))) fun t =>
        .next (t.advance 1)))

/-- R250, R290: a post-increment or pre-decrement form whose data register is half of its own pointer is refused. -/
def Obligations.PointerHalfAsDataRegisterIsRefused : Prop :=
  ∀ (s : State) (d : Reg),
    (d = 26 ∨ d = 27 → ∀ i ∈ [Instr.ldXInc d, .ldXDec d, .stXInc d, .stXDec d],
      exec i s = .refused (.pointerRegisterUpdated d)) ∧
    (d = 28 ∨ d = 29 → ∀ i ∈ [Instr.ldYInc d, .ldYDec d, .stYInc d, .stYDec d],
      exec i s = .refused (.pointerRegisterUpdated d)) ∧
    (d = 30 ∨ d = 31 → ∀ i ∈ [Instr.ldZInc d, .ldZDec d, .stZInc d, .stZDec d, .lpmInc d],
      exec i s = .refused (.pointerRegisterUpdated d))

/-- R22, R222: LDS into R0 to R15 is refused. -/
def Obligations.LdsBelowR16IsRefused : Prop :=
  ∀ (s : State) (d : Reg) (k : Word), d.toNat < 16 → exec (.lds d k) s = .refused (.ldsLowRegister d)

/-- R61, R62: one data address names a register below 0x20, an I/O register from 0x20 to 0x5F, RAM from SRAM_START to
RAMEND, and nothing elsewhere; a read and a write each go where the map says.  A RAM byte that nothing has written reads as
a free value (the model's choice, log 4).  An access to nothing is refused in the spec's word; that it is a fault is the
model's split (log 8, DESIGN CHOICE). -/
def Obligations.DataAccessFollowsTheMap : Prop :=
  ∀ (s : State) (a : Word) (v : Byte),
    (a.toNat < 0x20 →
      memRead a s = .next (s.reg (BitVec.ofNat 5 a.toNat), s) ∧
      ∃ t, memWrite a v s = .next t ∧ t.reg (BitVec.ofNat 5 a.toNat) = v ∧
        regsKept s t [BitVec.ofNat 5 a.toNat] ∧ t = { s with regs := t.regs }) ∧
    (0x20 ≤ a.toNat → a.toNat < 0x60 →
      memRead a s = ioRead (BitVec.ofNat 6 (a.toNat - 0x20)) s ∧
      memWrite a v s = ioWrite (BitVec.ofNat 6 (a.toNat - 0x20)) v s) ∧
    (isRam s.cfg a →
      (∃ t, memRead a s = .next (ramValue s a, t) ∧ t = { s with draws := s.draws + ramDraws s a }) ∧
      ∃ t, memWrite a v s = .next t ∧ t.ramByte a.toNat = some v ∧ ramKeptBut s t [a.toNat] ∧
        t = { s with ram := t.ram }) ∧
    (0x60 ≤ a.toNat → (a.toNat < s.cfg.sramStart ∨ s.cfg.ramEnd < a.toNat) →
      memRead a s = .fault (.noMemory a) ∧ memWrite a v s = .fault (.noMemory a))

/-! ## I/O -/

/-- R64, R34, R65: what reading and writing each I/O address does: SREG, SPL, SPH, DDRx, PORTx and PINx; every other address
is refused, and so is a write of PINx.  The level a PINx read returns is a free value (log 3). -/
def Obligations.IoAccessFollowsTheTable : Prop :=
  ∀ (s : State) (v : Byte), s.cfg.wf = true → Memory.wf (some latchBlank) s.latches →
    (ioRead s.cfg.sregIo s = .next (s.sreg, s) ∧
      ioRead s.cfg.splIo s = .next (BitVec.ofNat 8 s.sp.toNat, s) ∧
      ioRead s.cfg.sphIo s = .next (BitVec.ofNat 8 (s.sp.toNat / 256), s)) ∧
    (ioWrite s.cfg.sregIo v s =
        .next { s with sreg := v, irqHold := s.irqHold || (!flagI s.sreg && flagI v) } ∧
      ioWrite s.cfg.splIo v s = .next { s with sp := BitVec.ofNat 16 (s.sp.toNat / 256 * 256 + v.toNat) } ∧
      ioWrite s.cfg.sphIo v s = .next { s with sp := BitVec.ofNat 16 (v.toNat * 256 + s.sp.toNat % 256) }) ∧
    (∀ p ∈ s.cfg.ports,
      (∀ a, a = p.ddrIo ∨ a = p.portIo → ioRead a s = .next (s.latch a, s) ∧
        ∃ t, ioWrite a v s = .next t ∧ t.latch a = v ∧ (∀ b, b ≠ a → t.latch b = s.latch b) ∧
          t = { s with latches := t.latches }) ∧
      ioRead p.pinIo s = .next (Config.pinLevels s.draws, { s with draws := s.draws + 1 }) ∧
      ioWrite p.pinIo v s = .refused (.pinWrite p.pinIo)) ∧
    (∀ a, a ∉ s.cfg.ioAddresses →
      ioRead a s = .refused (.unspecifiedIo a) ∧ ioWrite a v s = .refused (.unspecifiedIo a))

/-- R246: IN completes at every I/O register the spec gives: Rd takes what `IoRead` answers, at most a draw is counted
(PINx), nothing else changes; at every other address it is refused (R65). -/
def Obligations.InReadsTheIoRegister : Prop :=
  ∀ (s : State) (d : Reg) (a : IoAddr), s.cfg.wf = true →
    (a ∈ s.cfg.ioAddresses → Completes (.ioIn d a) s (fun t =>
      (a = s.cfg.sregIo → t.reg d = s.sreg) ∧
      (a = s.cfg.splIo → (t.reg d).toNat = s.sp.toNat % 256) ∧
      (a = s.cfg.sphIo → (t.reg d).toNat = s.sp.toNat / 256) ∧
      (∀ p ∈ s.cfg.ports, (a = p.ddrIo ∨ a = p.portIo → t.reg d = s.latch a) ∧
        (a = p.pinIo → t.reg d = Config.pinLevels s.draws)) ∧
      t.draws = s.draws + (if ∃ p ∈ s.cfg.ports, a = p.pinIo then 1 else 0) ∧
      regsKept s t [d] ∧ t.sreg = s.sreg ∧ t.sp = s.sp ∧ ramKept s t ∧ latchesKept s t ∧
      t.irqHold = s.irqHold ∧ givenKept s t ∧ pcSteps s t 1)) ∧
    (a ∉ s.cfg.ioAddresses → exec (.ioIn d a) s = .refused (.unspecifiedIo a))

/-- R247: OUT completes at SREG (all eight flags, `irq_hold` where I goes 0 to 1), SPL, SPH (one half of SP), DDRx and
PORTx; nothing else changes.  At PINx and at every other address it is refused (R34, R65). -/
def Obligations.OutWritesTheIoRegister : Prop :=
  ∀ (s : State) (r : Reg), s.cfg.wf = true → Memory.wf (some latchBlank) s.latches →
    Completes (.ioOut s.cfg.sregIo r) s (fun t =>
      t.sreg = s.reg r ∧ t.irqHold = (s.irqHold || (!flagI s.sreg && flagI (s.reg r))) ∧ t.sp = s.sp ∧
      regsKept s t [] ∧ ramKept s t ∧ latchesKept s t ∧ t.draws = s.draws ∧ givenKept s t ∧ pcSteps s t 1) ∧
    Completes (.ioOut s.cfg.splIo r) s (fun t =>
      t.sp.toNat = s.sp.toNat / 256 * 256 + (s.reg r).toNat ∧ t.sreg = s.sreg ∧ t.irqHold = s.irqHold ∧
      regsKept s t [] ∧ ramKept s t ∧ latchesKept s t ∧ t.draws = s.draws ∧ givenKept s t ∧ pcSteps s t 1) ∧
    Completes (.ioOut s.cfg.sphIo r) s (fun t =>
      t.sp.toNat = (s.reg r).toNat * 256 + s.sp.toNat % 256 ∧ t.sreg = s.sreg ∧ t.irqHold = s.irqHold ∧
      regsKept s t [] ∧ ramKept s t ∧ latchesKept s t ∧ t.draws = s.draws ∧ givenKept s t ∧ pcSteps s t 1) ∧
    (∀ p ∈ s.cfg.ports,
      (∀ a, a = p.ddrIo ∨ a = p.portIo → Completes (.ioOut a r) s (fun t =>
        t.latch a = s.reg r ∧ (∀ b, b ≠ a → t.latch b = s.latch b) ∧ t.sp = s.sp ∧ t.sreg = s.sreg ∧
        t.irqHold = s.irqHold ∧ regsKept s t [] ∧ ramKept s t ∧ t.draws = s.draws ∧ givenKept s t ∧
        pcSteps s t 1)) ∧
      exec (.ioOut p.pinIo r) s = .refused (.pinWrite p.pinIo)) ∧
    (∀ a, a ∉ s.cfg.ioAddresses → exec (.ioOut a r) s = .refused (.unspecifiedIo a))

/-! ## Stack -/

/-- R248, R70: PUSH stores R[r] at SP and then decrements SP, where SP names RAM; nothing else changes. -/
def Obligations.PushStoresThenDecrements : Prop :=
  ∀ (s : State) (r : Reg), s.cfg.pcBits ≤ 16 → isRam s.cfg s.sp →
    Completes (.push r) s (fun t =>
      t.ramByte s.sp.toNat = some (s.reg r) ∧ ramKeptBut s t [s.sp.toNat] ∧ t.sp = s.sp - 1 ∧
      t.sreg = s.sreg ∧ regsKept s t [] ∧ latchesKept s t ∧ t.irqHold = s.irqHold ∧ t.draws = s.draws ∧
      givenKept s t ∧ pcSteps s t 1)

/-- R249, R70: POP increments SP and then loads from it, where that names RAM; nothing else changes.  A byte that nothing
has written gives a free value (the model's choice, log 4). -/
def Obligations.PopIncrementsThenLoads : Prop :=
  ∀ (s : State) (d : Reg), s.cfg.pcBits ≤ 16 → isRam s.cfg (s.sp + 1) →
    Completes (.pop d) s (fun t =>
      t.reg d = ramValue s (s.sp + 1) ∧ t.sp = s.sp + 1 ∧ regsKept s t [d] ∧ t.sreg = s.sreg ∧ ramKept s t ∧
      latchesKept s t ∧ t.irqHold = s.irqHold ∧ t.draws = s.draws + ramDraws s (s.sp + 1) ∧ givenKept s t ∧
      pcSteps s t 1)

/-- R249: POP after PUSH returns the pushed value and restores SP. -/
def Obligations.PopAfterPushReturnsTheValue : Prop :=
  ∀ (s : State) (r d : Reg), isRam s.cfg s.sp →
    ∃ t u, exec (.push r) s = .next t ∧ exec (.pop d) t = .next u ∧
      u.reg d = s.reg r ∧ u.sp = s.sp ∧ regsKept s u [d] ∧ u.sreg = s.sreg ∧ ramKeptBut s u [s.sp.toNat]

/-- R70, R71, R183 to R186, R248, R249, R301: at EVERY stack address.  In RAM, `Push` and `Pop` are `MemWrite` and `MemRead`
at SP, one byte at a time, in the order of the pseudocode, and PUSH, POP, RCALL, CALL, RET and RETI are built from them.
Outside RAM there is no next state: a stack byte in the register file or the I/O space is refused, one with nothing behind
it faults (which of the two words a stop has is the model's choice, logs 8 and 25). -/
def Obligations.StackInstructionsFollowTheirPseudocode : Prop :=
  ∀ (s : State) (r : Reg) (k : BitVec 12) (a : BitVec 22) (v : Byte) (ra : Word),
    (isRam s.cfg s.sp → push v s = andThen (memWrite s.sp v s) fun t => .next { t with sp := t.sp - 1 }) ∧
    (s.sp.toNat < 0x60 → push v s = .refused (.stackOutsideRam s.sp)) ∧
    (0x60 ≤ s.sp.toNat → (s.sp.toNat < s.cfg.sramStart ∨ s.cfg.ramEnd < s.sp.toNat) →
      push v s = .fault (.noMemory s.sp)) ∧
    (isRam s.cfg (s.sp + 1) → pop s = memRead (s.sp + 1) { s with sp := s.sp + 1 }) ∧
    ((s.sp + 1).toNat < 0x60 → pop s = .refused (.stackOutsideRam (s.sp + 1))) ∧
    (0x60 ≤ (s.sp + 1).toNat → ((s.sp + 1).toNat < s.cfg.sramStart ∨ s.cfg.ramEnd < (s.sp + 1).toNat) →
      pop s = .fault (.noMemory (s.sp + 1))) ∧
    pushAddr ra s = (andThen (push (BitVec.ofNat 8 ra.toNat) s) fun t => push (BitVec.ofNat 8 (ra.toNat / 256)) t) ∧
    exec (.push r) s = (andThen (push (s.reg r) s) fun t => .next (t.advance 1)) ∧
    exec (.pop r) s = (andThen (pop s) fun x => .next ((x.2.setReg r x.1).advance 1)) ∧
    exec (.rcall k) s =
      (andThen (pushAddr (s.wrapPc (s.pc + 1)) s) fun t => .next (t.setPc (s.pc + k.signExtend 16 + 1))) ∧
    (a.toNat < 2 ^ s.cfg.pcBits → exec (.call a) s =
      andThen (pushAddr (s.wrapPc (s.pc + 2)) s) fun t => .next (t.setPc (BitVec.ofNat 16 a.toNat))) ∧
    exec .ret s = (andThen (pop s) fun x => andThen (pop x.2) fun y => .next (y.2.setPc (x.1 ++ y.1))) ∧
    exec .reti s = (andThen (exec .ret s) fun t => .next { t with sreg := t.sreg ||| 0x80, irqHold := true }) ∧
    (¬stackRoom s → ∀ t, exec (.rcall k) s ≠ .next t ∧ exec (.call a) s ≠ .next t) ∧
    (¬stackHolds s → ∀ t, exec .ret s ≠ .next t ∧ exec .reti s ≠ .next t)

/-! ## Miscellaneous -/

/-- R285, R286, R287: NOP only steps; SEI sets I and `irq_hold`, CLI clears I; no other flag and nothing else changes. -/
def Obligations.NopSeiAndCli : Prop :=
  ∀ s : State, s.cfg.pcBits ≤ 16 →
    WritesFlagsOnly .nop s s.sreg ∧
    WritesFlagsOnly .cli s (s.sreg &&& 0x7F) ∧
    Completes .sei s (fun t =>
      t.sreg = s.sreg ||| 0x80 ∧ t.irqHold = true ∧ t.sp = s.sp ∧ regsKept s t [] ∧ ramKept s t ∧
      latchesKept s t ∧ t.draws = s.draws ∧ givenKept s t ∧ pcSteps s t 1)

/-- R67, R288, R289: LPM loads the low byte of the word `Z >> 1` when Z is even, the high byte when it is odd; the
post-increment form then counts Z up by one; no flag and nothing else changes. -/
def Obligations.LpmLoadsTheFlashByte : Prop :=
  ∀ (s : State) (d : Reg), s.cfg.pcBits ≤ 16 → (s.pair .z).toNat / 2 < s.cfg.flashWords →
    (let w := s.rawFlashWord (BitVec.ofNat 16 ((s.pair .z).toNat / 2))
     let v := BitVec.ofNat 8 (if (s.pair .z).toNat % 2 = 0 then w.toNat else w.toNat / 256)
     WritesRegAndFlags (.lpm d) s d v s.sreg ∧
     (d ≠ 30 → d ≠ 31 → Completes (.lpmInc d) s (fun t =>
       t.reg d = v ∧ t.pair .z = s.pair .z + 1 ∧ regsKept s t [d, 30, 31] ∧ t.sreg = s.sreg ∧ pcSteps s t 1 ∧
         restKept s t)))

/-- R67, D28: LPM of a byte whose word lies above FLASHEND has no next state.  The spec calls the read refused; that it is a
fault is the model's split (log 8, DESIGN CHOICE). -/
def Obligations.LpmOutsideFlashFaults : Prop :=
  ∀ (s : State) (d : Reg), s.cfg.flashWords ≤ (s.pair .z).toNat / 2 →
    exec (.lpm d) s = .fault (.lpmOutsideFlash (s.pair .z)) ∧
    (d ≠ 30 → d ≠ 31 → exec (.lpmInc d) s = .fault (.lpmOutsideFlash (s.pair .z)))

/-! ## Interrupts -/

/-- R305, R308: an interrupt is taken at a boundary exactly when I is 1, `irq_hold` is 0 and a source requests; the one
taken requests and none that requests has a smaller rank (the rank's direction is the model's choice, log 13); otherwise
the instruction at pc runs. -/
def Obligations.InterruptIsTakenExactlyWhenEnabled : Prop :=
  ∀ s : State,
    (flagI s.sreg = true ∧ s.irqHold = false ∧ s.requesting ≠ [] →
      ∃ src ∈ s.requesting, (∀ y ∈ s.requesting, src.priority ≤ y.priority) ∧
        step s = interruptEntry src { s with requests := s.requests.tail }) ∧
    (¬(flagI s.sreg = true ∧ s.irqHold = false ∧ s.requesting ≠ []) →
      step s = andThen (fetch s) fun i => exec i { s with requests := s.requests.tail, irqHold := false })

/-- R306: the entry pushes the pc as CALL does, clears I and goes to the vector; the other seven flags, every register,
every other RAM byte and everything else stay as they are; where a stack byte is not RAM the entry has no next state. -/
def Obligations.InterruptEntrySavesThePcOnly : Prop :=
  ∀ (s : State) (src : IrqSource),
    (s.cfg.wf = true → src ∈ s.cfg.irq → stackRoom s →
      ∃ t, interruptEntry src s = .next t ∧ pushedAddress s t s.pc.toNat ∧ t.pc = src.vector ∧
        t.sreg = s.sreg &&& 0x7F ∧ regsKept s t [] ∧ latchesKept s t ∧ t.irqHold = s.irqHold ∧
        t.draws = s.draws ∧ givenKept s t) ∧
    (¬stackRoom s → ∀ t, interruptEntry src s ≠ .next t)

/-- R303, R306, R309, R318: an interrupt whose vector holds RETI returns to the interrupted instruction: pc, SP, SREG and
every register as before the entry, `irq_hold` set, and only the two dead stack bytes changed. -/
def Obligations.EntryThenRetiResumes : Prop :=
  ∀ (s : State) (src : IrqSource), s.cfg.wf = true → s.pc.toNat < 2 ^ s.cfg.pcBits →
    s.dueInterrupt = some src → stackRoom s → s.rawFlashWord src.vector = 0x9518 →
    ∃ t u, step s = .next t ∧ step t = .next u ∧ u.pc = s.pc ∧ u.sp = s.sp ∧ u.sreg = s.sreg ∧
      u.irqHold = true ∧ regsKept s u [] ∧ ramKeptBut s u [s.sp.toNat, (s.sp - 1).toNat] ∧ latchesKept s u

/-- R36, R305, R347: whatever instruction makes I go from 0 to 1, `irq_hold` is then 1, so that no interrupt is taken at the
next boundary. -/
def Obligations.EnablingInterruptsHoldsOne : Prop :=
  ∀ s t : State, step s = .next t → flagI s.sreg = false → flagI t.sreg = true →
    t.irqHold = true ∧ t.dueInterrupt = none

/-- R36, R305, R306: `irq_hold` is 1 only while I is 1; every step keeps that. -/
def Obligations.HoldStandsOnlyWhileEnabled : Prop :=
  ∀ s t : State, (s.irqHold = true → flagI s.sreg = true) → step s = .next t →
    (t.irqHold = true → flagI t.sreg = true)

/-! ## The whole machine -/

/-- The invariant holds after reset (R37, with the configuration of log 1 and the register values of logs 5 and 6, none of
which the invariant asks about). -/
def Obligations.ResetMeetsTheInvariant : Prop := State.reset.Inv

/-- R5, R27, R34, R61, R66: from every state that meets the invariant (a legal configuration, every memory in canonical form
and inside its range, pc below 2^PC_BITS), every step that answers a next state, an interrupt entry included, keeps it. -/
def Obligations.StepKeepsTheInvariant : Prop :=
  ∀ s t : State, s.Inv → step s = .next t → t.Inv

/-- R66, R80, R304: no step, of any instruction or interrupt entry, changes program memory or the configuration, and each
uses up exactly one of the environment's request sets. -/
def Obligations.StepNeverWritesProgramMemory : Prop :=
  ∀ s t : State, step s = .next t → t.flash = s.flash ∧ t.cfg = s.cfg ∧ t.requests = s.requests.tail

/-- R29, R32, R73: an instruction that is no store, OUT, PUSH or call leaves every RAM byte and every port register alone,
leaves SP alone unless it pops, and leaves every flag alone that its row does not list. -/
def Obligations.NonStoringInstructionsKeepTheRest : Prop :=
  ∀ (i : Instr) (s t : State), exec i s = .next t → mayStore i = false →
    ramKept s t ∧ latchesKept s t ∧ (popsStack i = false → t.sp = s.sp) ∧
      ∀ b < 8, b ∉ flagsListed i → t.sreg.getLsbD b = s.sreg.getLsbD b

/-- R26: every instruction that is not a control transfer ends with the pc its length in words further on, a branch whose
condition does not hold one word further on; the length is 2 for JMP, CALL, LDS and STS and 1 for every other form. -/
def Obligations.OtherInstructionsStepByTheirLength : Prop :=
  ∀ (i : Instr) (s t : State), s.cfg.pcBits ≤ 16 → exec i s = .next t →
    (setsPc i = false → pcSteps s t i.words) ∧
    (branchCondition i s.sreg = some false → pcSteps s t 1) ∧
    (i.words = 2 ↔ (∃ k, i = .jmp k ∨ i = .call k) ∨ ∃ d k, i = .lds d k ∨ i = .sts k d) ∧
    (i.words = 1 ∨ i.words = 2)

/-- R348: with no interrupt due, `RJMP -1` (word 0xCFFF) at pc is a fixed point of the step, but for the environment's
requests and `irq_hold`.  A run has finished when pc holds the address of that word and, if IRQ is not empty, I is 0 or no
source will request again; a finished run stays finished with the same state, and the end state of a run is the first
finished state its steps reach, never a step that stopped. -/
def Obligations.RjmpMinusOneIsAFixedPoint : Prop :=
  (∀ s : State, s.cfg.wf = true → s.dueInterrupt = none → s.pc.toNat < s.cfg.flashWords →
    s.rawFlashWord s.pc = 0xCFFF →
      step s = .next { s with requests := s.requests.tail, irqHold := false }) ∧
  (∀ s : State, s.finished = true ↔
    s.pc.toNat < s.cfg.flashWords ∧ s.rawFlashWord s.pc = 0xCFFF ∧
      (s.cfg.irq = [] ∨ flagI s.sreg = false ∨ ∀ req ∈ s.requests, s.sourcesOf req = [])) ∧
  (∀ s : State, s.cfg.wf = true → s.finished = true →
    ∃ t, step s = .next t ∧ t.finished = true ∧ t = { s with requests := s.requests.tail, irqHold := false }) ∧
  (∀ (n : Nat) (s t : State), endState n s = some t →
    t.finished = true ∧ ∃ k ≤ n, Host.Core.run Sys2Proof.core k s = .next t ∧
      ∀ j < k, ∀ u : State, Host.Core.run Sys2Proof.core j s = .next u → u.finished = false)

/-- R37, R341: what reset leaves, for every piece of state the spec gives a value: pc 0, SREG 0 (interrupts disabled), every
DDRx and PORTx 0, `irq_hold` 0; no RAM byte holds a value; no interrupt source (the test configuration, log 1). -/
def Obligations.ResetLeavesTheStatedValues : Prop :=
  State.reset.pc = 0 ∧ State.reset.sreg = 0 ∧ flagI State.reset.sreg = false ∧ State.reset.irqHold = false ∧
  (∀ a, State.reset.latch a = 0) ∧ (∀ a, State.reset.ramByte a = none) ∧ State.reset.cfg.irq = [] ∧
  State.reset.dueInterrupt = none
end

