-- ==== Sys2Proof/Laws/Flags.lean ====
section
/-! SUPPORT. The bits of a packed SREG, and what each flag function does to each flag. -/

namespace Sys2Proof.Machine

variable (i t h s v n z c : Bool)

@[simp] theorem flagC_packSreg : flagC (packSreg i t h s v n z c) = c := by
  revert i t h s v n z c; decide
@[simp] theorem flagZ_packSreg : flagZ (packSreg i t h s v n z c) = z := by
  revert i t h s v n z c; decide
@[simp] theorem flagN_packSreg : flagN (packSreg i t h s v n z c) = n := by
  revert i t h s v n z c; decide
@[simp] theorem flagV_packSreg : flagV (packSreg i t h s v n z c) = v := by
  revert i t h s v n z c; decide
@[simp] theorem flagS_packSreg : flagS (packSreg i t h s v n z c) = s := by
  revert i t h s v n z c; decide
@[simp] theorem flagH_packSreg : flagH (packSreg i t h s v n z c) = h := by
  revert i t h s v n z c; decide
@[simp] theorem flagT_packSreg : flagT (packSreg i t h s v n z c) = t := by
  revert i t h s v n z c; decide
@[simp] theorem flagI_packSreg : flagI (packSreg i t h s v n z c) = i := by
  revert i t h s v n z c; decide

/-- Packing the flags of a byte gives the byte back (R28). -/
theorem packSreg_flags (x : Byte) : packSreg (flagI x) (flagT x) (flagH x) (flagS x) (flagV x) (flagN x) (flagZ x)
    (flagC x) = x := by
  revert x; decide

/-- Two bytes with the same eight flags are the same byte (R28). -/
theorem sreg_ext {x y : Byte} (hI : flagI x = flagI y) (hT : flagT x = flagT y) (hH : flagH x = flagH y)
    (hS : flagS x = flagS y) (hV : flagV x = flagV y) (hN : flagN x = flagN y) (hZ : flagZ x = flagZ y)
    (hC : flagC x = flagC y) : x = y := by
  rw [← packSreg_flags x, ← packSreg_flags y, hI, hT, hH, hS, hV, hN, hZ, hC]

end Sys2Proof.Machine
end

