-- ==== Sys2Proof/Laws/State.lean ====
section
/-! SUPPORT. One lemma per field per update of `State`, each true by unfolding the update, so that no later proof unfolds a
record update; then what each one-byte read gives after each update. -/

namespace Sys2Proof.Machine

variable (s : State)

/-! ### setReg -/

@[simp] theorem setReg_cfg (d : Reg) (v : Byte) : (s.setReg d v).cfg = s.cfg := rfl
@[simp] theorem setReg_regs (d : Reg) (v : Byte) : (s.setReg d v).regs = s.regs.set d.toNat v d.isLt := rfl
@[simp] theorem setReg_pc (d : Reg) (v : Byte) : (s.setReg d v).pc = s.pc := rfl
@[simp] theorem setReg_sreg (d : Reg) (v : Byte) : (s.setReg d v).sreg = s.sreg := rfl
@[simp] theorem setReg_sp (d : Reg) (v : Byte) : (s.setReg d v).sp = s.sp := rfl
@[simp] theorem setReg_ram (d : Reg) (v : Byte) : (s.setReg d v).ram = s.ram := rfl
@[simp] theorem setReg_latches (d : Reg) (v : Byte) : (s.setReg d v).latches = s.latches := rfl
@[simp] theorem setReg_flash (d : Reg) (v : Byte) : (s.setReg d v).flash = s.flash := rfl
@[simp] theorem setReg_irqHold (d : Reg) (v : Byte) : (s.setReg d v).irqHold = s.irqHold := rfl
@[simp] theorem setReg_requests (d : Reg) (v : Byte) : (s.setReg d v).requests = s.requests := rfl
@[simp] theorem setReg_draws (d : Reg) (v : Byte) : (s.setReg d v).draws = s.draws := rfl

/-! ### setPair -/

@[simp] theorem setPair_cfg (p : Pointer) (v : Word) : (s.setPair p v).cfg = s.cfg := rfl
@[simp] theorem setPair_pc (p : Pointer) (v : Word) : (s.setPair p v).pc = s.pc := rfl
@[simp] theorem setPair_sreg (p : Pointer) (v : Word) : (s.setPair p v).sreg = s.sreg := rfl
@[simp] theorem setPair_sp (p : Pointer) (v : Word) : (s.setPair p v).sp = s.sp := rfl
@[simp] theorem setPair_ram (p : Pointer) (v : Word) : (s.setPair p v).ram = s.ram := rfl
@[simp] theorem setPair_latches (p : Pointer) (v : Word) : (s.setPair p v).latches = s.latches := rfl
@[simp] theorem setPair_flash (p : Pointer) (v : Word) : (s.setPair p v).flash = s.flash := rfl
@[simp] theorem setPair_irqHold (p : Pointer) (v : Word) : (s.setPair p v).irqHold = s.irqHold := rfl
@[simp] theorem setPair_requests (p : Pointer) (v : Word) : (s.setPair p v).requests = s.requests := rfl
@[simp] theorem setPair_draws (p : Pointer) (v : Word) : (s.setPair p v).draws = s.draws := rfl

/-! ### setPc -/

@[simp] theorem setPc_cfg (t : Word) : (s.setPc t).cfg = s.cfg := rfl
@[simp] theorem setPc_regs (t : Word) : (s.setPc t).regs = s.regs := rfl
@[simp] theorem setPc_pc (t : Word) : (s.setPc t).pc = s.wrapPc t := rfl
@[simp] theorem setPc_sreg (t : Word) : (s.setPc t).sreg = s.sreg := rfl
@[simp] theorem setPc_sp (t : Word) : (s.setPc t).sp = s.sp := rfl
@[simp] theorem setPc_ram (t : Word) : (s.setPc t).ram = s.ram := rfl
@[simp] theorem setPc_latches (t : Word) : (s.setPc t).latches = s.latches := rfl
@[simp] theorem setPc_flash (t : Word) : (s.setPc t).flash = s.flash := rfl
@[simp] theorem setPc_irqHold (t : Word) : (s.setPc t).irqHold = s.irqHold := rfl
@[simp] theorem setPc_requests (t : Word) : (s.setPc t).requests = s.requests := rfl
@[simp] theorem setPc_draws (t : Word) : (s.setPc t).draws = s.draws := rfl

/-! ### advance -/

@[simp] theorem advance_cfg (n : Nat) : (s.advance n).cfg = s.cfg := rfl
@[simp] theorem advance_regs (n : Nat) : (s.advance n).regs = s.regs := rfl
@[simp] theorem advance_pc (n : Nat) : (s.advance n).pc = s.wrapPc (s.pc + BitVec.ofNat 16 n) := rfl
@[simp] theorem advance_sreg (n : Nat) : (s.advance n).sreg = s.sreg := rfl
@[simp] theorem advance_sp (n : Nat) : (s.advance n).sp = s.sp := rfl
@[simp] theorem advance_ram (n : Nat) : (s.advance n).ram = s.ram := rfl
@[simp] theorem advance_latches (n : Nat) : (s.advance n).latches = s.latches := rfl
@[simp] theorem advance_flash (n : Nat) : (s.advance n).flash = s.flash := rfl
@[simp] theorem advance_irqHold (n : Nat) : (s.advance n).irqHold = s.irqHold := rfl
@[simp] theorem advance_requests (n : Nat) : (s.advance n).requests = s.requests := rfl
@[simp] theorem advance_draws (n : Nat) : (s.advance n).draws = s.draws := rfl

/-! ### setSreg -/

@[simp] theorem setSreg_cfg (v : Byte) : (s.setSreg v).cfg = s.cfg := rfl
@[simp] theorem setSreg_regs (v : Byte) : (s.setSreg v).regs = s.regs := rfl
@[simp] theorem setSreg_pc (v : Byte) : (s.setSreg v).pc = s.pc := rfl
@[simp] theorem setSreg_sreg (v : Byte) : (s.setSreg v).sreg = v := rfl
@[simp] theorem setSreg_sp (v : Byte) : (s.setSreg v).sp = s.sp := rfl
@[simp] theorem setSreg_ram (v : Byte) : (s.setSreg v).ram = s.ram := rfl
@[simp] theorem setSreg_latches (v : Byte) : (s.setSreg v).latches = s.latches := rfl
@[simp] theorem setSreg_flash (v : Byte) : (s.setSreg v).flash = s.flash := rfl
@[simp] theorem setSreg_irqHold (v : Byte) : (s.setSreg v).irqHold = s.irqHold := rfl
@[simp] theorem setSreg_requests (v : Byte) : (s.setSreg v).requests = s.requests := rfl
@[simp] theorem setSreg_draws (v : Byte) : (s.setSreg v).draws = s.draws := rfl

/-! ### setSp -/

@[simp] theorem setSp_cfg (v : Word) : (s.setSp v).cfg = s.cfg := rfl
@[simp] theorem setSp_regs (v : Word) : (s.setSp v).regs = s.regs := rfl
@[simp] theorem setSp_pc (v : Word) : (s.setSp v).pc = s.pc := rfl
@[simp] theorem setSp_sreg (v : Word) : (s.setSp v).sreg = s.sreg := rfl
@[simp] theorem setSp_sp (v : Word) : (s.setSp v).sp = v := rfl
@[simp] theorem setSp_ram (v : Word) : (s.setSp v).ram = s.ram := rfl
@[simp] theorem setSp_latches (v : Word) : (s.setSp v).latches = s.latches := rfl
@[simp] theorem setSp_flash (v : Word) : (s.setSp v).flash = s.flash := rfl
@[simp] theorem setSp_irqHold (v : Word) : (s.setSp v).irqHold = s.irqHold := rfl
@[simp] theorem setSp_requests (v : Word) : (s.setSp v).requests = s.requests := rfl
@[simp] theorem setSp_draws (v : Word) : (s.setSp v).draws = s.draws := rfl

/-! ### setHold -/

@[simp] theorem setHold_cfg (b : Bool) : (s.setHold b).cfg = s.cfg := rfl
@[simp] theorem setHold_regs (b : Bool) : (s.setHold b).regs = s.regs := rfl
@[simp] theorem setHold_pc (b : Bool) : (s.setHold b).pc = s.pc := rfl
@[simp] theorem setHold_sreg (b : Bool) : (s.setHold b).sreg = s.sreg := rfl
@[simp] theorem setHold_sp (b : Bool) : (s.setHold b).sp = s.sp := rfl
@[simp] theorem setHold_ram (b : Bool) : (s.setHold b).ram = s.ram := rfl
@[simp] theorem setHold_latches (b : Bool) : (s.setHold b).latches = s.latches := rfl
@[simp] theorem setHold_flash (b : Bool) : (s.setHold b).flash = s.flash := rfl
@[simp] theorem setHold_irqHold (b : Bool) : (s.setHold b).irqHold = b := rfl
@[simp] theorem setHold_requests (b : Bool) : (s.setHold b).requests = s.requests := rfl
@[simp] theorem setHold_draws (b : Bool) : (s.setHold b).draws = s.draws := rfl

/-! ### setRam -/

@[simp] theorem setRam_cfg (a : Nat) (v : Byte) : (s.setRam a v).cfg = s.cfg := rfl
@[simp] theorem setRam_regs (a : Nat) (v : Byte) : (s.setRam a v).regs = s.regs := rfl
@[simp] theorem setRam_pc (a : Nat) (v : Byte) : (s.setRam a v).pc = s.pc := rfl
@[simp] theorem setRam_sreg (a : Nat) (v : Byte) : (s.setRam a v).sreg = s.sreg := rfl
@[simp] theorem setRam_sp (a : Nat) (v : Byte) : (s.setRam a v).sp = s.sp := rfl
@[simp] theorem setRam_ram (a : Nat) (v : Byte) : (s.setRam a v).ram = Memory.write ramBlank s.ram a v := rfl
@[simp] theorem setRam_latches (a : Nat) (v : Byte) : (s.setRam a v).latches = s.latches := rfl
@[simp] theorem setRam_flash (a : Nat) (v : Byte) : (s.setRam a v).flash = s.flash := rfl
@[simp] theorem setRam_irqHold (a : Nat) (v : Byte) : (s.setRam a v).irqHold = s.irqHold := rfl
@[simp] theorem setRam_requests (a : Nat) (v : Byte) : (s.setRam a v).requests = s.requests := rfl
@[simp] theorem setRam_draws (a : Nat) (v : Byte) : (s.setRam a v).draws = s.draws := rfl

/-! ### setLatch -/

@[simp] theorem setLatch_cfg (a : IoAddr) (v : Byte) : (s.setLatch a v).cfg = s.cfg := rfl
@[simp] theorem setLatch_regs (a : IoAddr) (v : Byte) : (s.setLatch a v).regs = s.regs := rfl
@[simp] theorem setLatch_pc (a : IoAddr) (v : Byte) : (s.setLatch a v).pc = s.pc := rfl
@[simp] theorem setLatch_sreg (a : IoAddr) (v : Byte) : (s.setLatch a v).sreg = s.sreg := rfl
@[simp] theorem setLatch_sp (a : IoAddr) (v : Byte) : (s.setLatch a v).sp = s.sp := rfl
@[simp] theorem setLatch_ram (a : IoAddr) (v : Byte) : (s.setLatch a v).ram = s.ram := rfl
@[simp] theorem setLatch_latches (a : IoAddr) (v : Byte) : (s.setLatch a v).latches = Memory.write (some latchBlank) s.latches a.toNat v := rfl
@[simp] theorem setLatch_flash (a : IoAddr) (v : Byte) : (s.setLatch a v).flash = s.flash := rfl
@[simp] theorem setLatch_irqHold (a : IoAddr) (v : Byte) : (s.setLatch a v).irqHold = s.irqHold := rfl
@[simp] theorem setLatch_requests (a : IoAddr) (v : Byte) : (s.setLatch a v).requests = s.requests := rfl
@[simp] theorem setLatch_draws (a : IoAddr) (v : Byte) : (s.setLatch a v).draws = s.draws := rfl

/-! ### setFlashWord -/

@[simp] theorem setFlashWord_cfg (w v : Word) : (s.setFlashWord w v).cfg = s.cfg := rfl
@[simp] theorem setFlashWord_regs (w v : Word) : (s.setFlashWord w v).regs = s.regs := rfl
@[simp] theorem setFlashWord_pc (w v : Word) : (s.setFlashWord w v).pc = s.pc := rfl
@[simp] theorem setFlashWord_sreg (w v : Word) : (s.setFlashWord w v).sreg = s.sreg := rfl
@[simp] theorem setFlashWord_sp (w v : Word) : (s.setFlashWord w v).sp = s.sp := rfl
@[simp] theorem setFlashWord_ram (w v : Word) : (s.setFlashWord w v).ram = s.ram := rfl
@[simp] theorem setFlashWord_latches (w v : Word) : (s.setFlashWord w v).latches = s.latches := rfl
@[simp] theorem setFlashWord_irqHold (w v : Word) : (s.setFlashWord w v).irqHold = s.irqHold := rfl
@[simp] theorem setFlashWord_requests (w v : Word) : (s.setFlashWord w v).requests = s.requests := rfl
@[simp] theorem setFlashWord_draws (w v : Word) : (s.setFlashWord w v).draws = s.draws := rfl

/-! ### drawn -/

@[simp] theorem drawn_cfg : (s.drawn).cfg = s.cfg := rfl
@[simp] theorem drawn_regs : (s.drawn).regs = s.regs := rfl
@[simp] theorem drawn_pc : (s.drawn).pc = s.pc := rfl
@[simp] theorem drawn_sreg : (s.drawn).sreg = s.sreg := rfl
@[simp] theorem drawn_sp : (s.drawn).sp = s.sp := rfl
@[simp] theorem drawn_ram : (s.drawn).ram = s.ram := rfl
@[simp] theorem drawn_latches : (s.drawn).latches = s.latches := rfl
@[simp] theorem drawn_flash : (s.drawn).flash = s.flash := rfl
@[simp] theorem drawn_irqHold : (s.drawn).irqHold = s.irqHold := rfl
@[simp] theorem drawn_requests : (s.drawn).requests = s.requests := rfl
@[simp] theorem drawn_draws : (s.drawn).draws = s.draws + 1 := rfl

/-! ### passBoundary -/

@[simp] theorem passBoundary_cfg : (s.passBoundary).cfg = s.cfg := rfl
@[simp] theorem passBoundary_regs : (s.passBoundary).regs = s.regs := rfl
@[simp] theorem passBoundary_pc : (s.passBoundary).pc = s.pc := rfl
@[simp] theorem passBoundary_sreg : (s.passBoundary).sreg = s.sreg := rfl
@[simp] theorem passBoundary_sp : (s.passBoundary).sp = s.sp := rfl
@[simp] theorem passBoundary_ram : (s.passBoundary).ram = s.ram := rfl
@[simp] theorem passBoundary_latches : (s.passBoundary).latches = s.latches := rfl
@[simp] theorem passBoundary_flash : (s.passBoundary).flash = s.flash := rfl
@[simp] theorem passBoundary_irqHold : (s.passBoundary).irqHold = s.irqHold := rfl
@[simp] theorem passBoundary_requests : (s.passBoundary).requests = s.requests.tail := rfl
@[simp] theorem passBoundary_draws : (s.passBoundary).draws = s.draws := rfl

/-! ### Reads of one byte over the updates that leave their field alone -/

@[simp] theorem setReg_ramByte (d : Reg) (v : Byte) (y : Nat) : (s.setReg d v).ramByte y = s.ramByte y := rfl
@[simp] theorem setReg_latch (d : Reg) (v : Byte) (y : IoAddr) : (s.setReg d v).latch y = s.latch y := rfl
@[simp] theorem setReg_rawFlash (d : Reg) (v : Byte) (y : Nat) : (s.setReg d v).rawFlash y = s.rawFlash y := rfl
@[simp] theorem setReg_rawFlashWord (d : Reg) (v : Byte) (y : Word) : (s.setReg d v).rawFlashWord y = s.rawFlashWord y := rfl
@[simp] theorem setReg_wrapPc (d : Reg) (v : Byte) (u : Word) : (s.setReg d v).wrapPc u = s.wrapPc u := rfl
@[simp] theorem setReg_inFlash (d : Reg) (v : Byte) (u : Word) : (s.setReg d v).inFlash u = s.inFlash u := rfl
@[simp] theorem setPair_ramByte (p : Pointer) (v : Word) (y : Nat) : (s.setPair p v).ramByte y = s.ramByte y := rfl
@[simp] theorem setPair_latch (p : Pointer) (v : Word) (y : IoAddr) : (s.setPair p v).latch y = s.latch y := rfl
@[simp] theorem setPair_rawFlash (p : Pointer) (v : Word) (y : Nat) : (s.setPair p v).rawFlash y = s.rawFlash y := rfl
@[simp] theorem setPair_rawFlashWord (p : Pointer) (v : Word) (y : Word) : (s.setPair p v).rawFlashWord y = s.rawFlashWord y := rfl
@[simp] theorem setPair_wrapPc (p : Pointer) (v : Word) (u : Word) : (s.setPair p v).wrapPc u = s.wrapPc u := rfl
@[simp] theorem setPair_inFlash (p : Pointer) (v : Word) (u : Word) : (s.setPair p v).inFlash u = s.inFlash u := rfl
@[simp] theorem setPc_reg (t : Word) (x : Reg) : (s.setPc t).reg x = s.reg x := rfl
@[simp] theorem setPc_pair (t : Word) (q : Pointer) : (s.setPc t).pair q = s.pair q := rfl
@[simp] theorem setPc_ramByte (t : Word) (y : Nat) : (s.setPc t).ramByte y = s.ramByte y := rfl
@[simp] theorem setPc_latch (t : Word) (y : IoAddr) : (s.setPc t).latch y = s.latch y := rfl
@[simp] theorem setPc_rawFlash (t : Word) (y : Nat) : (s.setPc t).rawFlash y = s.rawFlash y := rfl
@[simp] theorem setPc_rawFlashWord (t : Word) (y : Word) : (s.setPc t).rawFlashWord y = s.rawFlashWord y := rfl
@[simp] theorem setPc_wrapPc (t : Word) (u : Word) : (s.setPc t).wrapPc u = s.wrapPc u := rfl
@[simp] theorem setPc_inFlash (t : Word) (u : Word) : (s.setPc t).inFlash u = s.inFlash u := rfl
@[simp] theorem advance_reg (n : Nat) (x : Reg) : (s.advance n).reg x = s.reg x := rfl
@[simp] theorem advance_pair (n : Nat) (q : Pointer) : (s.advance n).pair q = s.pair q := rfl
@[simp] theorem advance_ramByte (n : Nat) (y : Nat) : (s.advance n).ramByte y = s.ramByte y := rfl
@[simp] theorem advance_latch (n : Nat) (y : IoAddr) : (s.advance n).latch y = s.latch y := rfl
@[simp] theorem advance_rawFlash (n : Nat) (y : Nat) : (s.advance n).rawFlash y = s.rawFlash y := rfl
@[simp] theorem advance_rawFlashWord (n : Nat) (y : Word) : (s.advance n).rawFlashWord y = s.rawFlashWord y := rfl
@[simp] theorem advance_wrapPc (n : Nat) (u : Word) : (s.advance n).wrapPc u = s.wrapPc u := rfl
@[simp] theorem advance_inFlash (n : Nat) (u : Word) : (s.advance n).inFlash u = s.inFlash u := rfl
@[simp] theorem setSreg_reg (v : Byte) (x : Reg) : (s.setSreg v).reg x = s.reg x := rfl
@[simp] theorem setSreg_pair (v : Byte) (q : Pointer) : (s.setSreg v).pair q = s.pair q := rfl
@[simp] theorem setSreg_ramByte (v : Byte) (y : Nat) : (s.setSreg v).ramByte y = s.ramByte y := rfl
@[simp] theorem setSreg_latch (v : Byte) (y : IoAddr) : (s.setSreg v).latch y = s.latch y := rfl
@[simp] theorem setSreg_rawFlash (v : Byte) (y : Nat) : (s.setSreg v).rawFlash y = s.rawFlash y := rfl
@[simp] theorem setSreg_rawFlashWord (v : Byte) (y : Word) : (s.setSreg v).rawFlashWord y = s.rawFlashWord y := rfl
@[simp] theorem setSreg_wrapPc (v : Byte) (u : Word) : (s.setSreg v).wrapPc u = s.wrapPc u := rfl
@[simp] theorem setSreg_inFlash (v : Byte) (u : Word) : (s.setSreg v).inFlash u = s.inFlash u := rfl
@[simp] theorem setSp_reg (v : Word) (x : Reg) : (s.setSp v).reg x = s.reg x := rfl
@[simp] theorem setSp_pair (v : Word) (q : Pointer) : (s.setSp v).pair q = s.pair q := rfl
@[simp] theorem setSp_ramByte (v : Word) (y : Nat) : (s.setSp v).ramByte y = s.ramByte y := rfl
@[simp] theorem setSp_latch (v : Word) (y : IoAddr) : (s.setSp v).latch y = s.latch y := rfl
@[simp] theorem setSp_rawFlash (v : Word) (y : Nat) : (s.setSp v).rawFlash y = s.rawFlash y := rfl
@[simp] theorem setSp_rawFlashWord (v : Word) (y : Word) : (s.setSp v).rawFlashWord y = s.rawFlashWord y := rfl
@[simp] theorem setSp_wrapPc (v : Word) (u : Word) : (s.setSp v).wrapPc u = s.wrapPc u := rfl
@[simp] theorem setSp_inFlash (v : Word) (u : Word) : (s.setSp v).inFlash u = s.inFlash u := rfl
@[simp] theorem setHold_reg (b : Bool) (x : Reg) : (s.setHold b).reg x = s.reg x := rfl
@[simp] theorem setHold_pair (b : Bool) (q : Pointer) : (s.setHold b).pair q = s.pair q := rfl
@[simp] theorem setHold_ramByte (b : Bool) (y : Nat) : (s.setHold b).ramByte y = s.ramByte y := rfl
@[simp] theorem setHold_latch (b : Bool) (y : IoAddr) : (s.setHold b).latch y = s.latch y := rfl
@[simp] theorem setHold_rawFlash (b : Bool) (y : Nat) : (s.setHold b).rawFlash y = s.rawFlash y := rfl
@[simp] theorem setHold_rawFlashWord (b : Bool) (y : Word) : (s.setHold b).rawFlashWord y = s.rawFlashWord y := rfl
@[simp] theorem setHold_wrapPc (b : Bool) (u : Word) : (s.setHold b).wrapPc u = s.wrapPc u := rfl
@[simp] theorem setHold_inFlash (b : Bool) (u : Word) : (s.setHold b).inFlash u = s.inFlash u := rfl
@[simp] theorem setRam_reg (a : Nat) (v : Byte) (x : Reg) : (s.setRam a v).reg x = s.reg x := rfl
@[simp] theorem setRam_pair (a : Nat) (v : Byte) (q : Pointer) : (s.setRam a v).pair q = s.pair q := rfl
@[simp] theorem setRam_latch (a : Nat) (v : Byte) (y : IoAddr) : (s.setRam a v).latch y = s.latch y := rfl
@[simp] theorem setRam_rawFlash (a : Nat) (v : Byte) (y : Nat) : (s.setRam a v).rawFlash y = s.rawFlash y := rfl
@[simp] theorem setRam_rawFlashWord (a : Nat) (v : Byte) (y : Word) : (s.setRam a v).rawFlashWord y = s.rawFlashWord y := rfl
@[simp] theorem setRam_wrapPc (a : Nat) (v : Byte) (u : Word) : (s.setRam a v).wrapPc u = s.wrapPc u := rfl
@[simp] theorem setRam_inFlash (a : Nat) (v : Byte) (u : Word) : (s.setRam a v).inFlash u = s.inFlash u := rfl
@[simp] theorem setLatch_reg (a : IoAddr) (v : Byte) (x : Reg) : (s.setLatch a v).reg x = s.reg x := rfl
@[simp] theorem setLatch_pair (a : IoAddr) (v : Byte) (q : Pointer) : (s.setLatch a v).pair q = s.pair q := rfl
@[simp] theorem setLatch_ramByte (a : IoAddr) (v : Byte) (y : Nat) : (s.setLatch a v).ramByte y = s.ramByte y := rfl
@[simp] theorem setLatch_rawFlash (a : IoAddr) (v : Byte) (y : Nat) : (s.setLatch a v).rawFlash y = s.rawFlash y := rfl
@[simp] theorem setLatch_rawFlashWord (a : IoAddr) (v : Byte) (y : Word) : (s.setLatch a v).rawFlashWord y = s.rawFlashWord y := rfl
@[simp] theorem setLatch_wrapPc (a : IoAddr) (v : Byte) (u : Word) : (s.setLatch a v).wrapPc u = s.wrapPc u := rfl
@[simp] theorem setLatch_inFlash (a : IoAddr) (v : Byte) (u : Word) : (s.setLatch a v).inFlash u = s.inFlash u := rfl
@[simp] theorem setFlashWord_reg (w v : Word) (x : Reg) : (s.setFlashWord w v).reg x = s.reg x := rfl
@[simp] theorem setFlashWord_pair (w v : Word) (q : Pointer) : (s.setFlashWord w v).pair q = s.pair q := rfl
@[simp] theorem setFlashWord_ramByte (w v : Word) (y : Nat) : (s.setFlashWord w v).ramByte y = s.ramByte y := rfl
@[simp] theorem setFlashWord_latch (w v : Word) (y : IoAddr) : (s.setFlashWord w v).latch y = s.latch y := rfl
@[simp] theorem setFlashWord_wrapPc (w v : Word) (u : Word) : (s.setFlashWord w v).wrapPc u = s.wrapPc u := rfl
@[simp] theorem setFlashWord_inFlash (w v : Word) (u : Word) : (s.setFlashWord w v).inFlash u = s.inFlash u := rfl
@[simp] theorem drawn_reg (x : Reg) : (s.drawn).reg x = s.reg x := rfl
@[simp] theorem drawn_pair (q : Pointer) : (s.drawn).pair q = s.pair q := rfl
@[simp] theorem drawn_ramByte (y : Nat) : (s.drawn).ramByte y = s.ramByte y := rfl
@[simp] theorem drawn_latch (y : IoAddr) : (s.drawn).latch y = s.latch y := rfl
@[simp] theorem drawn_rawFlash (y : Nat) : (s.drawn).rawFlash y = s.rawFlash y := rfl
@[simp] theorem drawn_rawFlashWord (y : Word) : (s.drawn).rawFlashWord y = s.rawFlashWord y := rfl
@[simp] theorem drawn_wrapPc (u : Word) : (s.drawn).wrapPc u = s.wrapPc u := rfl
@[simp] theorem drawn_inFlash (u : Word) : (s.drawn).inFlash u = s.inFlash u := rfl
@[simp] theorem passBoundary_reg (x : Reg) : (s.passBoundary).reg x = s.reg x := rfl
@[simp] theorem passBoundary_pair (q : Pointer) : (s.passBoundary).pair q = s.pair q := rfl
@[simp] theorem passBoundary_ramByte (y : Nat) : (s.passBoundary).ramByte y = s.ramByte y := rfl
@[simp] theorem passBoundary_latch (y : IoAddr) : (s.passBoundary).latch y = s.latch y := rfl
@[simp] theorem passBoundary_rawFlash (y : Nat) : (s.passBoundary).rawFlash y = s.rawFlash y := rfl
@[simp] theorem passBoundary_rawFlashWord (y : Word) : (s.passBoundary).rawFlashWord y = s.rawFlashWord y := rfl
@[simp] theorem passBoundary_wrapPc (u : Word) : (s.passBoundary).wrapPc u = s.wrapPc u := rfl
@[simp] theorem passBoundary_inFlash (u : Word) : (s.passBoundary).inFlash u = s.inFlash u := rfl

/-! ### Registers and pairs -/

@[simp] theorem setReg_reg_same (d : Reg) (v : Byte) : (s.setReg d v).reg d = v := by
  simp [State.reg]

theorem setReg_reg_ne (d x : Reg) (v : Byte) (h : x ≠ d) : (s.setReg d v).reg x = s.reg x := by
  have h' : d.toNat ≠ x.toNat := fun e => h (BitVec.eq_of_toNat_eq e.symm)
  simp [State.reg, h']

theorem setReg_reg (d x : Reg) (v : Byte) :
    (s.setReg d v).reg x = if x = d then v else s.reg x := by
  split
  · next h => subst h; simp
  · next h => exact setReg_reg_ne s d x v h

@[simp] theorem setReg_reg_self (d : Reg) : s.setReg d (s.reg d) = s := by
  simp [State.setReg, State.reg]

/-- States are equal when their fields are, with the register file compared register by register. -/
theorem regs_ext {u v : Vector Byte 32} (h : ∀ x : Reg, u[x.toNat]'x.isLt = v[x.toNat]'x.isLt) : u = v := by
  apply Vector.ext
  intro i hi
  have e := h (BitVec.ofNat 5 i)
  have hm : (BitVec.ofNat 5 i).toNat = i := by simp [Nat.mod_eq_of_lt hi]
  simpa only [hm] using e

theorem pointer_low_ne_high (p : Pointer) : p.low ≠ p.high := by cases p <;> decide

theorem setPair_reg (p : Pointer) (v : Word) (x : Reg) :
    (s.setPair p v).reg x =
      if x = p.high then v.extractLsb' 8 8 else if x = p.low then v.extractLsb' 0 8 else s.reg x := by
  simp only [State.setPair, setReg_reg]

@[simp] theorem setPair_pair_same (p : Pointer) (v : Word) : (s.setPair p v).pair p = v := by
  have h := pointer_low_ne_high p
  simp only [State.pair, setPair_reg, h, if_true, if_false]
  apply BitVec.eq_of_getLsbD_eq
  intro i hi
  simp only [BitVec.getLsbD_append, BitVec.getLsbD_extractLsb']
  by_cases h8 : i < 8
  · simp [h8]
  · have : i - 8 < 8 := by omega
    simp [h8, this, show 8 + (i - 8) = i by omega]

theorem setPair_reg_ne (p : Pointer) (v : Word) (x : Reg) (h : p.half x = false) :
    (s.setPair p v).reg x = s.reg x := by
  simp only [Pointer.half, Bool.or_eq_false_iff, beq_eq_false_iff_ne] at h
  simp [setPair_reg, h.1, h.2]

theorem setReg_pair_ne (p : Pointer) (d : Reg) (v : Byte) (h : p.half d = false) :
    (s.setReg d v).pair p = s.pair p := by
  simp only [Pointer.half, Bool.or_eq_false_iff, beq_eq_false_iff_ne] at h
  simp only [State.pair, setReg_reg_ne s d _ v (Ne.symm h.1), setReg_reg_ne s d _ v (Ne.symm h.2)]

end Sys2Proof.Machine
end

