-- ==== Sys2Proof/Laws/Memory.lean ====
section
/-! SUPPORT. The laws of the sparse memories: a read after a write, and the canonical form that every write keeps. -/

namespace Sys2Proof.Machine

theorem lookup_insert (m : Memory) (a b : Nat) (v : Byte) :
    Memory.lookup (Memory.insert m a v) b = if b = a then some v else Memory.lookup m b := by
  induction m with
  | nil => simp [Memory.insert, Memory.lookup, eq_comm]
  | cons x m ih =>
    obtain ⟨c, w⟩ := x
    simp only [Memory.insert]
    split
    · simp [Memory.lookup, eq_comm]
    · split
      · next h =>
        subst h
        simp only [Memory.lookup]
        by_cases e : b = a
        · simp [e]
        · simp [e, Ne.symm e]
      · simp only [Memory.lookup, ih]; split <;> simp_all [eq_comm]

theorem lookup_eq_none_of_lt {m : Memory} {a : Nat} (h : ∀ x ∈ m, a < x.1) : Memory.lookup m a = none := by
  induction m with
  | nil => rfl
  | cons x m ih =>
    have hx := h x (by simp)
    simp only [Memory.lookup]
    rw [if_neg (by omega)]
    exact ih fun y hy => h y (by simp [hy])

theorem lookup_erase_ne (m : Memory) (a b : Nat) (h : b ≠ a) :
    Memory.lookup (Memory.erase m a) b = Memory.lookup m b := by
  induction m with
  | nil => rfl
  | cons x m ih =>
    obtain ⟨c, w⟩ := x
    simp only [Memory.erase]
    split
    · next e => subst e; simp [Memory.lookup, Ne.symm h]
    · simp only [Memory.lookup, ih]

theorem lookup_erase_same {blank : Option Byte} {m : Memory} (hm : Memory.wf blank m) (a : Nat) :
    Memory.lookup (Memory.erase m a) a = none := by
  induction m with
  | nil => rfl
  | cons x m ih =>
    obtain ⟨c, w⟩ := x
    obtain ⟨hs, hb⟩ := hm
    rw [List.pairwise_cons] at hs
    simp only [Memory.erase]
    split
    · next e => subst e; exact lookup_eq_none_of_lt hs.1
    · next e =>
      simp only [Memory.lookup, if_neg e]
      exact ih ⟨hs.2, fun y hy => hb y (by simp [hy])⟩

theorem mem_insert {m : Memory} {a : Nat} {v : Byte} {x : Host.Cell} (h : x ∈ Memory.insert m a v) :
    x = (a, v) ∨ x ∈ m := by
  induction m with
  | nil => simpa [Memory.insert] using h
  | cons y m ih =>
    obtain ⟨c, w⟩ := y
    simp only [Memory.insert] at h
    split at h
    · simpa using h
    · split at h
      · rcases List.mem_cons.mp h with h | h
        · exact .inl h
        · exact .inr (by simp [h])
      · rcases List.mem_cons.mp h with h | h
        · exact .inr (by simp [h])
        · exact (ih h).imp_right (by simp +contextual)

theorem mem_erase {m : Memory} {a : Nat} {x : Host.Cell} (h : x ∈ Memory.erase m a) : x ∈ m := by
  induction m with
  | nil => exact h
  | cons y m ih =>
    obtain ⟨c, w⟩ := y
    simp only [Memory.erase] at h
    split at h
    · simp [h]
    · rcases List.mem_cons.mp h with h | h
      · simp [h]
      · simp [ih h]

theorem insert_wf {blank : Option Byte} {m : Memory} (hm : Memory.wf blank m) (a : Nat) {v : Byte}
    (hv : some v ≠ blank) : Memory.wf blank (Memory.insert m a v) := by
  refine ⟨?_, fun x hx => (mem_insert hx).elim (fun e => by rw [e]; exact hv) (hm.2 x)⟩
  obtain ⟨hs, hb⟩ := hm
  clear hb
  induction m with
  | nil => simp [Memory.insert]
  | cons y m ih =>
    obtain ⟨c, w⟩ := y
    rw [List.pairwise_cons] at hs
    simp only [Memory.insert]
    split
    · next h =>
      refine List.pairwise_cons.mpr ⟨?_, List.pairwise_cons.mpr hs⟩
      intro x hx
      rcases List.mem_cons.mp hx with e | e
      · subst e; exact h
      · have := hs.1 x e; simp only at *; omega
    · split
      · next h => subst h; exact List.pairwise_cons.mpr hs
      · next h1 h2 =>
        refine List.pairwise_cons.mpr ⟨?_, ih hs.2⟩
        intro x hx
        rcases mem_insert hx with e | e
        · subst e; simp only; omega
        · exact hs.1 x e

theorem erase_wf {blank : Option Byte} {m : Memory} (hm : Memory.wf blank m) (a : Nat) :
    Memory.wf blank (Memory.erase m a) := by
  refine ⟨?_, fun x hx => hm.2 x (mem_erase hx)⟩
  obtain ⟨hs, hb⟩ := hm
  clear hb
  induction m with
  | nil => exact List.Pairwise.nil
  | cons y m ih =>
    obtain ⟨c, w⟩ := y
    rw [List.pairwise_cons] at hs
    simp only [Memory.erase]
    split
    · exact hs.2
    · exact List.pairwise_cons.mpr ⟨fun x hx => hs.1 x (mem_erase hx), ih hs.2⟩

/-- Every write keeps the canonical form. -/
theorem write_wf {blank : Option Byte} {m : Memory} (hm : Memory.wf blank m) (a : Nat) (v : Byte) :
    Memory.wf blank (Memory.write blank m a v) := by
  unfold Memory.write
  split
  · exact erase_wf hm a
  · next h => exact insert_wf hm a (Ne.symm h)

theorem mem_write {blank : Option Byte} {m : Memory} {a : Nat} {v : Byte} {x : Host.Cell}
    (h : x ∈ Memory.write blank m a v) : x = (a, v) ∨ x ∈ m := by
  unfold Memory.write at h
  split at h
  · exact .inr (mem_erase h)
  · exact mem_insert h

theorem lookup_write_ne (blank : Option Byte) (m : Memory) (a b : Nat) (v : Byte) (h : b ≠ a) :
    Memory.lookup (Memory.write blank m a v) b = Memory.lookup m b := by
  unfold Memory.write
  split
  · exact lookup_erase_ne m a b h
  · simp [lookup_insert, h]

/-- A memory without a blank value: a read after a write. -/
@[simp] theorem lookup_write_ram (m : Memory) (a b : Nat) (v : Byte) :
    Memory.lookup (Memory.write ramBlank m a v) b = if b = a then some v else Memory.lookup m b := by
  simp [Memory.write, lookup_insert]

/-- A memory with a blank value, in canonical form: a read after a write. -/
theorem lookup_write_getD {blank : Byte} {m : Memory} (hm : Memory.wf (some blank) m) (a b : Nat) (v : Byte) :
    (Memory.lookup (Memory.write (some blank) m a v) b).getD blank =
      if b = a then v else (Memory.lookup m b).getD blank := by
  by_cases h : b = a
  · subst h
    unfold Memory.write
    split
    · next e => simp [lookup_erase_same hm, Option.some.inj e]
    · simp [lookup_insert]
  · simp [lookup_write_ne _ m a b v h, h]

/-! ### The three memories of the state -/

@[simp] theorem setRam_ramByte (s : State) (a b : Nat) (v : Byte) :
    (s.setRam a v).ramByte b = if b = a then some v else s.ramByte b := by
  simp [State.ramByte]

theorem setLatch_latch {s : State} (h : Memory.wf (some latchBlank) s.latches) (a b : IoAddr) (v : Byte) :
    (s.setLatch a v).latch b = if b = a then v else s.latch b := by
  simp only [State.latch, setLatch_latches, lookup_write_getD h, BitVec.toNat_inj]

theorem setLatch_latch_ne (s : State) (a b : IoAddr) (v : Byte) (h : b ≠ a) :
    (s.setLatch a v).latch b = s.latch b := by
  simp only [State.latch, setLatch_latches]
  rw [lookup_write_ne _ _ _ _ _ (fun e => h (BitVec.eq_of_toNat_eq e))]

theorem setFlashWord_flash_wf {s : State} (h : Memory.wf (some flashBlank) s.flash) (w v : Word) :
    Memory.wf (some flashBlank) (s.setFlashWord w v).flash := write_wf (write_wf h _ _) _ _

theorem setFlashWord_rawFlashWord {s : State} (h : Memory.wf (some flashBlank) s.flash) (w u v : Word) :
    (s.setFlashWord w v).rawFlashWord u = if u = w then v else s.rawFlashWord u := by
  have h1 := write_wf h (2 * w.toNat) (v.extractLsb' 0 8)
  simp only [State.rawFlashWord, State.rawFlash, State.setFlashWord, lookup_write_getD h1, lookup_write_getD h]
  by_cases e : u = w
  · subst e
    simp only [if_true]
    rw [if_neg (by omega)]
    apply BitVec.eq_of_getLsbD_eq
    intro i hi
    simp only [BitVec.getLsbD_append, BitVec.getLsbD_extractLsb']
    by_cases h8 : i < 8
    · simp [h8]
    · simp [h8, show i - 8 < 8 by omega, show 8 + (i - 8) = i by omega]
  · have en : u.toNat ≠ w.toNat := fun x => e (BitVec.eq_of_toNat_eq x)
    rw [if_neg (by omega), if_neg (by omega), if_neg (by omega), if_neg (by omega), if_neg e]

/-- The reset state's memories have the canonical form. -/
theorem reset_memories_wf : Memory.wf ramBlank State.reset.ram ∧ Memory.wf (some latchBlank) State.reset.latches ∧
    Memory.wf (some flashBlank) State.reset.flash := by decide

end Sys2Proof.Machine
end

