-- ==== Sys2Proof/Laws/Ops.lean ====
section
/-! SUPPORT. One lemma per shared operation that says once everything it can do: if it answers a next state, then one of
the listed cases holds.  A later proof cites it and does not unfold the operation. -/

namespace Sys2Proof.Machine

/-! ### Sequencing -/

@[simp] theorem andThen_next {α β : Type} (a : α) (f : α → Result β) :
    andThen (Host.Outcome.next a : Result α) f = f a := rfl

@[simp] theorem andThen_fault {α β : Type} (r : Fault) (f : α → Result β) :
    andThen (Host.Outcome.fault r : Result α) f = .fault r := rfl

@[simp] theorem andThen_refused {α β : Type} (r : Refusal) (f : α → Result β) :
    andThen (Host.Outcome.refused r : Result α) f = .refused r := rfl

/-- A sequence answers a next state only through the next state of its first part. -/
theorem andThen_eq_next {α β : Type} {x : Result α} {f : α → Result β} {b : β} :
    andThen x f = .next b ↔ ∃ a, x = .next a ∧ f a = .next b := by
  cases x <;> simp

/-! ### The program counter -/

theorem wrapPc_toNat (s : State) (t : Word) (h : s.cfg.pcBits ≤ 16) :
    (s.wrapPc t).toNat = t.toNat % 2 ^ s.cfg.pcBits := by
  have hp : 2 ^ s.cfg.pcBits ≤ 2 ^ 16 := Nat.pow_le_pow_right (by decide) h
  have hlt := Nat.mod_lt t.toNat (Nat.two_pow_pos s.cfg.pcBits)
  simp only [State.wrapPc, BitVec.toNat_ofNat]
  exact Nat.mod_eq_of_lt (by omega)

theorem wrapPc_lt (s : State) (t : Word) : (s.wrapPc t).toNat < 2 ^ s.cfg.pcBits := by
  simp only [State.wrapPc, BitVec.toNat_ofNat]
  exact Nat.lt_of_le_of_lt (Nat.mod_le _ _) (Nat.mod_lt _ (Nat.two_pow_pos _))

/-- Stepping over `n` words, read on numbers (R26, R27). -/
theorem advance_pc_toNat (s : State) (n : Nat) (h : s.cfg.pcBits ≤ 16) :
    (s.advance n).pc.toNat = (s.pc.toNat + n) % 2 ^ s.cfg.pcBits := by
  rw [advance_pc, wrapPc_toNat s _ h, BitVec.toNat_add, BitVec.toNat_ofNat, Nat.add_mod_mod]
  exact Nat.mod_mod_of_dvd _ (Nat.pow_dvd_pow 2 h)

/-! ### Data memory -/

/-- Where a data address lies, on numbers (R61). -/
theorem dataPlace_cases (c : Config) (a : Word) :
    (a.toNat < 0x20 ∧ dataPlace c a = .reg (a.setWidth 5)) ∨
    (0x20 ≤ a.toNat ∧ a.toNat < 0x60 ∧ dataPlace c a = .io (BitVec.ofNat 6 (a.toNat - 0x20))) ∨
    (0x60 ≤ a.toNat ∧ c.sramStart ≤ a.toNat ∧ a.toNat ≤ c.ramEnd ∧ dataPlace c a = .ram) ∨
    (0x60 ≤ a.toNat ∧ (a.toNat < c.sramStart ∨ c.ramEnd < a.toNat) ∧ dataPlace c a = .nothing) := by
  unfold dataPlace
  simp only [Config.ioBase, Config.ioSize]
  split
  · next h => exact .inl ⟨h, rfl⟩
  · split
    · next h1 h2 => exact .inr (.inl ⟨by omega, by omega, rfl⟩)
    · split
      · next h1 h2 h3 => exact .inr (.inr (.inl ⟨by omega, h3.1, h3.2, rfl⟩))
      · next h1 h2 h3 => exact .inr (.inr (.inr ⟨by omega, by omega, rfl⟩))

/-- Everything a load of a RAM byte can do (R62, D22). -/
theorem ramRead_cases (a : Word) (s : State) :
    (∃ v, s.ramByte a.toNat = some v ∧ ramRead a s = (v, s)) ∨
    (s.ramByte a.toNat = none ∧ ramRead a s = (Config.unwrittenByte s.draws, s.drawn)) := by
  unfold ramRead
  cases h : s.ramByte a.toNat with
  | none => exact .inr ⟨rfl, rfl⟩
  | some v => exact .inl ⟨v, rfl, rfl⟩

/-- Everything an I/O read can do (R64): it answers a value, and at most a draw is taken. -/
theorem ioRead_next {a : IoAddr} {s t : State} {v : Byte} (h : ioRead a s = .next (v, t)) :
    (∃ r, ioReg s.cfg a = some r ∧ r ≠ .pin ∧ t = s) ∨ (ioReg s.cfg a = some .pin ∧ t = s.drawn) := by
  unfold ioRead at h
  cases hr : ioReg s.cfg a with
  | none => simp [hr] at h
  | some r => cases r <;> simp [hr] at h <;> simp [h.2]

/-- A load changes nothing but the count of draws (R74). -/
theorem memRead_next {a : Word} {s t : State} {v : Byte} (h : memRead a s = .next (v, t)) : t = s ∨ t = s.drawn := by
  unfold memRead at h
  split at h
  · simp at h; exact .inl h.2.symm
  · rcases ioRead_next h with ⟨_, _, _, rfl⟩ | ⟨_, rfl⟩ <;> simp
  · rcases ramRead_cases a s with ⟨w, _, e⟩ | ⟨_, e⟩ <;> simp [e] at h <;> simp [h.2]
  · simp at h

/-- Everything an I/O write can do (R64). -/
theorem ioWrite_next {a : IoAddr} {v : Byte} {s t : State} (h : ioWrite a v s = .next t) :
    (ioReg s.cfg a = some .sreg ∧ t = writeSreg v s) ∨
    (ioReg s.cfg a = some .spl ∧ t = s.setSp (s.sp.extractLsb' 8 8 ++ v)) ∨
    (ioReg s.cfg a = some .sph ∧ t = s.setSp (v ++ s.sp.extractLsb' 0 8)) ∨
    ((ioReg s.cfg a = some .ddr ∨ ioReg s.cfg a = some .port) ∧ t = s.setLatch a v) := by
  unfold ioWrite at h
  cases hr : ioReg s.cfg a with
  | none => simp [hr] at h
  | some r => cases r <;> simp [hr] at h <;> simp [h]

/-- Everything a store can do (R62). -/
theorem memWrite_next {a : Word} {v : Byte} {s t : State} (h : memWrite a v s = .next t) :
    (a.toNat < 0x20 ∧ t = s.setReg (a.setWidth 5) v) ∨
    (0x20 ≤ a.toNat ∧ a.toNat < 0x60 ∧ ioWrite (BitVec.ofNat 6 (a.toNat - 0x20)) v s = .next t) ∨
    (0x60 ≤ a.toNat ∧ s.cfg.sramStart ≤ a.toNat ∧ a.toNat ≤ s.cfg.ramEnd ∧ t = s.setRam a.toNat v) := by
  unfold memWrite at h
  rcases dataPlace_cases s.cfg a with ⟨h1, e⟩ | ⟨h1, h2, e⟩ | ⟨h1, h2, h3, e⟩ | ⟨h1, h2, e⟩ <;> simp [e] at h
  · exact .inl ⟨h1, h.symm⟩
  · exact .inr (.inl ⟨h1, h2, h⟩)
  · exact .inr (.inr ⟨h1, h2, h3, h.symm⟩)

theorem memWrite_ram {a : Word} {s : State} (v : Byte) (h : 0x60 ≤ a.toNat) (h1 : s.cfg.sramStart ≤ a.toNat)
    (h2 : a.toNat ≤ s.cfg.ramEnd) : memWrite a v s = .next (s.setRam a.toNat v) := by
  unfold memWrite
  rcases dataPlace_cases s.cfg a with ⟨_, e⟩ | ⟨_, _, e⟩ | ⟨_, _, _, e⟩ | ⟨_, _, e⟩ <;> simp only [e] <;> omega

theorem memRead_ram {a : Word} {s : State} (h : 0x60 ≤ a.toNat) (h1 : s.cfg.sramStart ≤ a.toNat)
    (h2 : a.toNat ≤ s.cfg.ramEnd) : memRead a s = .next (ramRead a s) := by
  unfold memRead
  rcases dataPlace_cases s.cfg a with ⟨_, e⟩ | ⟨_, _, e⟩ | ⟨_, _, _, e⟩ | ⟨_, _, e⟩ <;> simp only [e] <;> omega

/-! ### The stack -/

/-- A stack access answers only at or above 0x60, and there it is the access itself (R70). -/
theorem stackAccess_next {α : Type} {a : Word} {x : Result α} {b : α} (h : stackAccess a x = .next b) :
    0x60 ≤ a.toNat ∧ x = .next b := by
  unfold stackAccess at h
  split at h
  · simp at h
  · next hn => exact ⟨Nat.le_of_not_lt hn, h⟩

theorem stackAccess_below {α : Type} {a : Word} (x : Result α) (h : a.toNat < 0x60) :
    stackAccess a x = .refused (.stackOutsideRam a) := if_pos h

theorem stackAccess_above {α : Type} {a : Word} (x : Result α) (h : 0x60 ≤ a.toNat) : stackAccess a x = x :=
  if_neg (Nat.not_lt_of_le h)

/-- Everything a push can do (R70): the byte at SP is RAM, it is stored there, and SP goes down by one. -/
theorem push_next {v : Byte} {s t : State} (h : push v s = .next t) :
    0x60 ≤ s.sp.toNat ∧ s.cfg.sramStart ≤ s.sp.toNat ∧ s.sp.toNat ≤ s.cfg.ramEnd ∧
      t = (s.setRam s.sp.toNat v).setSp (s.sp - 1) := by
  obtain ⟨u, h1, h2⟩ := andThen_eq_next.mp h
  obtain ⟨h0, h1⟩ := stackAccess_next h1
  rcases memWrite_next h1 with ⟨h3, _⟩ | ⟨_, h3, _⟩ | ⟨_, h3, h4, rfl⟩
  · omega
  · omega
  · exact ⟨h0, h3, h4, by simpa using h2.symm⟩

/-- Everything a pop can do (R70): the byte above SP is RAM and is loaded, and SP goes up by one. -/
theorem pop_next {v : Byte} {s t : State} (h : pop s = .next (v, t)) :
    0x60 ≤ (s.sp + 1).toNat ∧ s.cfg.sramStart ≤ (s.sp + 1).toNat ∧ (s.sp + 1).toNat ≤ s.cfg.ramEnd ∧
      (v, t) = ramRead (s.sp + 1) (s.setSp (s.sp + 1)) := by
  obtain ⟨h0, h1⟩ := stackAccess_next h
  unfold memRead at h1
  rw [setSp_cfg] at h1
  rcases dataPlace_cases s.cfg (s.sp + 1) with ⟨h2, e⟩ | ⟨_, h2, e⟩ | ⟨_, h2, h3, e⟩ | ⟨_, _, e⟩
  · omega
  · omega
  · rw [e] at h1
    exact ⟨h0, h2, h3, (Host.Outcome.next.inj h1).symm⟩
  · rw [e] at h1
    cases h1

/-- A push where the byte at SP is RAM (R70). -/
theorem push_ram {s : State} (v : Byte) (h : 0x60 ≤ s.sp.toNat) (h1 : s.cfg.sramStart ≤ s.sp.toNat)
    (h2 : s.sp.toNat ≤ s.cfg.ramEnd) : push v s = .next ((s.setRam s.sp.toNat v).setSp (s.sp - 1)) := by
  unfold push
  rw [stackAccess_above _ h, memWrite_ram _ h h1 h2]
  rfl

/-- A pop where the byte above SP is RAM (R70). -/
theorem pop_ram {s : State} (h : 0x60 ≤ (s.sp + 1).toNat) (h1 : s.cfg.sramStart ≤ (s.sp + 1).toNat)
    (h2 : (s.sp + 1).toNat ≤ s.cfg.ramEnd) : pop s = .next (ramRead (s.sp + 1) (s.setSp (s.sp + 1))) := by
  unfold pop
  rw [stackAccess_above _ h, memRead_ram h (by simpa using h1) (by simpa using h2)]

/-- Everything the push of an address can do (R71). -/
theorem pushAddr_next {ra : Word} {s t : State} (h : pushAddr ra s = .next t) :
    ∃ u, push (ra.extractLsb' 0 8) s = .next u ∧ push (ra.extractLsb' 8 8) u = .next t := andThen_eq_next.mp h

/-- Everything the pop of an address can do (R71). -/
theorem popAddr_next {ra : Word} {s t : State} (h : popAddr s = .next (ra, t)) :
    ∃ hi u lo, pop s = .next (hi, u) ∧ pop u = .next (lo, t) ∧ ra = hi ++ lo := by
  obtain ⟨⟨hi, u⟩, h1, h2⟩ := andThen_eq_next.mp h
  obtain ⟨⟨lo, w⟩, h3, h4⟩ := andThen_eq_next.mp h2
  simp only [Host.Outcome.next.injEq, Prod.mk.injEq] at h4
  obtain ⟨rfl, rfl⟩ := h4
  exact ⟨hi, u, lo, h1, h3, rfl⟩

/-- The address push where both stack bytes are RAM (R71): the low byte at SP, the high byte below it. -/
theorem pushAddr_ram {s : State} (ra : Word) (h0 : 0x60 ≤ s.cfg.sramStart) (h1 : s.cfg.sramStart < s.sp.toNat)
    (h2 : s.sp.toNat ≤ s.cfg.ramEnd) :
    pushAddr ra s = .next
      (((s.setRam s.sp.toNat (ra.extractLsb' 0 8)).setRam (s.sp.toNat - 1) (ra.extractLsb' 8 8)).setSp (s.sp - 2)) := by
  have e : (s.sp - 1).toNat = s.sp.toNat - 1 := by bv_omega
  unfold pushAddr
  rw [push_ram _ (by omega) (by omega) h2, andThen_next]
  rw [push_ram _ (by simp; omega) (by simp; omega) (by simp; omega)]
  simp only [setSp_sp, e]
  simp only [State.setRam, State.setSp, Host.Outcome.next.injEq, State.mk.injEq, true_and, and_true]
  bv_omega

/-! ### Interrupts -/

/-- The chosen source is one of the candidates and none has a smaller rank (R305, R308). -/
theorem highestPriority_spec {xs : List IrqSource} {x : IrqSource} (h : highestPriority xs = some x) :
    x ∈ xs ∧ ∀ y ∈ xs, x.priority ≤ y.priority := by
  induction xs generalizing x with
  | nil => simp [highestPriority] at h
  | cons y ys ih =>
    simp only [highestPriority] at h
    cases hy : highestPriority ys with
    | none =>
      have : ys = [] := by
        cases ys with
        | nil => rfl
        | cons z zs =>
          simp only [highestPriority] at hy
          cases hz : highestPriority zs with
          | none => simp [hz] at hy
          | some w => simp only [hz] at hy; split at hy <;> simp at hy
      simp [hy] at h
      subst h this
      simp
    | some w =>
      obtain ⟨m, le⟩ := ih hy
      simp only [hy] at h
      split at h
      · next hle =>
        obtain rfl := Option.some.inj h
        exact ⟨by simp, fun z hz => (List.mem_cons.mp hz).elim (fun e => e ▸ Nat.le_refl _)
          (fun e => Nat.le_trans hle (le z e))⟩
      · next hle =>
        obtain rfl := Option.some.inj h
        exact ⟨by simp [m], fun z hz => (List.mem_cons.mp hz).elim (fun e => e ▸ by omega) (fun e => le z e)⟩

/-- No source requests at this boundary where none will request again. -/
theorem requesting_of_noMoreRequests {s : State} (h : s.noMoreRequests = true) : s.requesting = [] := by
  unfold State.noMoreRequests at h
  unfold State.requesting
  cases hr : s.requests with
  | nil => rfl
  | cons req rest =>
    simp only [hr, List.all_cons, Bool.and_eq_true, List.isEmpty_iff] at h
    exact h.1

/-- In a finished run no interrupt is due (R348). -/
theorem finished_dueInterrupt {s : State} (h : s.finished = true) : s.dueInterrupt = none := by
  unfold State.finished at h
  simp only [Bool.and_eq_true, Bool.or_eq_true, List.isEmpty_iff, Bool.not_eq_true'] at h
  unfold State.dueInterrupt
  rcases h.2 with (h | h) | h
  · have : s.requesting = [] := by simp [State.requesting, State.sourcesOf, h]
    simp [this, highestPriority]
  · simp [h]
  · simp [requesting_of_noMoreRequests h, highestPriority]

/-- Everything a step can do (R305). -/
theorem step_next {s t : State} (h : step s = .next t) :
    (∃ src, s.dueInterrupt = some src ∧ interruptEntry src s.passBoundary = .next t) ∨
    (s.dueInterrupt = none ∧ ∃ i, fetch s = .next i ∧ exec i s.enterInstr = .next t) := by
  unfold step at h
  cases hd : s.dueInterrupt with
  | some src => exact .inl ⟨src, rfl, by simpa [hd] using h⟩
  | none => exact .inr ⟨rfl, andThen_eq_next.mp (by simpa [hd] using h)⟩

end Sys2Proof.Machine
end

