-- ==== Sys2Proof/Laws/PerInstr.lean ====
section
/-! SUPPORT. Statements about every instruction as syntax, one lemma per constructor.  `EncodeLength`: an instruction's bytes
are two for each of its words, and it has one word or two (R67, R100). -/

namespace Sys2Proof.Laws

/-- The bytes of `i` are two per word, and `i` has one word or two. -/
def EncodeLength.Statement (i : Instr) : Prop :=
  (encode i).length = 2 * i.words ∧ (i.words = 1 ∨ i.words = 2)

theorem EncodeLength.add (d : Reg) (r : Reg) : EncodeLength.Statement (.add d r) := ⟨rfl, .inl rfl⟩
theorem EncodeLength.adc (d : Reg) (r : Reg) : EncodeLength.Statement (.adc d r) := ⟨rfl, .inl rfl⟩
theorem EncodeLength.sub (d : Reg) (r : Reg) : EncodeLength.Statement (.sub d r) := ⟨rfl, .inl rfl⟩
theorem EncodeLength.subi (d : HighReg) (k : Byte) : EncodeLength.Statement (.subi d k) := ⟨rfl, .inl rfl⟩
theorem EncodeLength.sbc (d : Reg) (r : Reg) : EncodeLength.Statement (.sbc d r) := ⟨rfl, .inl rfl⟩
theorem EncodeLength.sbci (d : HighReg) (k : Byte) : EncodeLength.Statement (.sbci d k) := ⟨rfl, .inl rfl⟩
theorem EncodeLength.inc (d : Reg) : EncodeLength.Statement (.inc d) := ⟨rfl, .inl rfl⟩
theorem EncodeLength.dec (d : Reg) : EncodeLength.Statement (.dec d) := ⟨rfl, .inl rfl⟩
theorem EncodeLength.neg (d : Reg) : EncodeLength.Statement (.neg d) := ⟨rfl, .inl rfl⟩
theorem EncodeLength.and (d : Reg) (r : Reg) : EncodeLength.Statement (.and d r) := ⟨rfl, .inl rfl⟩
theorem EncodeLength.andi (d : HighReg) (k : Byte) : EncodeLength.Statement (.andi d k) := ⟨rfl, .inl rfl⟩
theorem EncodeLength.or (d : Reg) (r : Reg) : EncodeLength.Statement (.or d r) := ⟨rfl, .inl rfl⟩
theorem EncodeLength.ori (d : HighReg) (k : Byte) : EncodeLength.Statement (.ori d k) := ⟨rfl, .inl rfl⟩
theorem EncodeLength.eor (d : Reg) (r : Reg) : EncodeLength.Statement (.eor d r) := ⟨rfl, .inl rfl⟩
theorem EncodeLength.com (d : Reg) : EncodeLength.Statement (.com d) := ⟨rfl, .inl rfl⟩
theorem EncodeLength.clr (d : Reg) : EncodeLength.Statement (.clr d) := ⟨rfl, .inl rfl⟩
theorem EncodeLength.ser (d : HighReg) : EncodeLength.Statement (.ser d) := ⟨rfl, .inl rfl⟩
theorem EncodeLength.rjmp (k : BitVec 12) : EncodeLength.Statement (.rjmp k) := ⟨rfl, .inl rfl⟩
theorem EncodeLength.jmp (k : BitVec 22) : EncodeLength.Statement (.jmp k) := ⟨rfl, .inr rfl⟩
theorem EncodeLength.rcall (k : BitVec 12) : EncodeLength.Statement (.rcall k) := ⟨rfl, .inl rfl⟩
theorem EncodeLength.call (k : BitVec 22) : EncodeLength.Statement (.call k) := ⟨rfl, .inr rfl⟩
theorem EncodeLength.ret : EncodeLength.Statement .ret := ⟨rfl, .inl rfl⟩
theorem EncodeLength.reti : EncodeLength.Statement .reti := ⟨rfl, .inl rfl⟩
theorem EncodeLength.cp (d : Reg) (r : Reg) : EncodeLength.Statement (.cp d r) := ⟨rfl, .inl rfl⟩
theorem EncodeLength.cpc (d : Reg) (r : Reg) : EncodeLength.Statement (.cpc d r) := ⟨rfl, .inl rfl⟩
theorem EncodeLength.cpi (d : HighReg) (k : Byte) : EncodeLength.Statement (.cpi d k) := ⟨rfl, .inl rfl⟩
theorem EncodeLength.tst (d : Reg) : EncodeLength.Statement (.tst d) := ⟨rfl, .inl rfl⟩
theorem EncodeLength.brbs (b : BitVec 3) (k : BitVec 7) : EncodeLength.Statement (.brbs b k) := ⟨rfl, .inl rfl⟩
theorem EncodeLength.brbc (b : BitVec 3) (k : BitVec 7) : EncodeLength.Statement (.brbc b k) := ⟨rfl, .inl rfl⟩
theorem EncodeLength.breq (k : BitVec 7) : EncodeLength.Statement (.breq k) := ⟨rfl, .inl rfl⟩
theorem EncodeLength.brne (k : BitVec 7) : EncodeLength.Statement (.brne k) := ⟨rfl, .inl rfl⟩
theorem EncodeLength.brcs (k : BitVec 7) : EncodeLength.Statement (.brcs k) := ⟨rfl, .inl rfl⟩
theorem EncodeLength.brcc (k : BitVec 7) : EncodeLength.Statement (.brcc k) := ⟨rfl, .inl rfl⟩
theorem EncodeLength.brsh (k : BitVec 7) : EncodeLength.Statement (.brsh k) := ⟨rfl, .inl rfl⟩
theorem EncodeLength.brlo (k : BitVec 7) : EncodeLength.Statement (.brlo k) := ⟨rfl, .inl rfl⟩
theorem EncodeLength.mov (d : Reg) (r : Reg) : EncodeLength.Statement (.mov d r) := ⟨rfl, .inl rfl⟩
theorem EncodeLength.ldi (d : HighReg) (k : Byte) : EncodeLength.Statement (.ldi d k) := ⟨rfl, .inl rfl⟩
theorem EncodeLength.lds (d : Reg) (k : Word) : EncodeLength.Statement (.lds d k) := ⟨rfl, .inr rfl⟩
theorem EncodeLength.ldX (d : Reg) : EncodeLength.Statement (.ldX d) := ⟨rfl, .inl rfl⟩
theorem EncodeLength.ldXInc (d : Reg) : EncodeLength.Statement (.ldXInc d) := ⟨rfl, .inl rfl⟩
theorem EncodeLength.ldXDec (d : Reg) : EncodeLength.Statement (.ldXDec d) := ⟨rfl, .inl rfl⟩
theorem EncodeLength.ldY (d : Reg) : EncodeLength.Statement (.ldY d) := ⟨rfl, .inl rfl⟩
theorem EncodeLength.ldYInc (d : Reg) : EncodeLength.Statement (.ldYInc d) := ⟨rfl, .inl rfl⟩
theorem EncodeLength.ldYDec (d : Reg) : EncodeLength.Statement (.ldYDec d) := ⟨rfl, .inl rfl⟩
theorem EncodeLength.lddY (d : Reg) (q : BitVec 6) : EncodeLength.Statement (.lddY d q) := ⟨rfl, .inl rfl⟩
theorem EncodeLength.ldZ (d : Reg) : EncodeLength.Statement (.ldZ d) := ⟨rfl, .inl rfl⟩
theorem EncodeLength.ldZInc (d : Reg) : EncodeLength.Statement (.ldZInc d) := ⟨rfl, .inl rfl⟩
theorem EncodeLength.ldZDec (d : Reg) : EncodeLength.Statement (.ldZDec d) := ⟨rfl, .inl rfl⟩
theorem EncodeLength.lddZ (d : Reg) (q : BitVec 6) : EncodeLength.Statement (.lddZ d q) := ⟨rfl, .inl rfl⟩
theorem EncodeLength.sts (k : Word) (r : Reg) : EncodeLength.Statement (.sts k r) := ⟨rfl, .inr rfl⟩
theorem EncodeLength.stX (r : Reg) : EncodeLength.Statement (.stX r) := ⟨rfl, .inl rfl⟩
theorem EncodeLength.stXInc (r : Reg) : EncodeLength.Statement (.stXInc r) := ⟨rfl, .inl rfl⟩
theorem EncodeLength.stXDec (r : Reg) : EncodeLength.Statement (.stXDec r) := ⟨rfl, .inl rfl⟩
theorem EncodeLength.stY (r : Reg) : EncodeLength.Statement (.stY r) := ⟨rfl, .inl rfl⟩
theorem EncodeLength.stYInc (r : Reg) : EncodeLength.Statement (.stYInc r) := ⟨rfl, .inl rfl⟩
theorem EncodeLength.stYDec (r : Reg) : EncodeLength.Statement (.stYDec r) := ⟨rfl, .inl rfl⟩
theorem EncodeLength.stdY (q : BitVec 6) (r : Reg) : EncodeLength.Statement (.stdY q r) := ⟨rfl, .inl rfl⟩
theorem EncodeLength.stZ (r : Reg) : EncodeLength.Statement (.stZ r) := ⟨rfl, .inl rfl⟩
theorem EncodeLength.stZInc (r : Reg) : EncodeLength.Statement (.stZInc r) := ⟨rfl, .inl rfl⟩
theorem EncodeLength.stZDec (r : Reg) : EncodeLength.Statement (.stZDec r) := ⟨rfl, .inl rfl⟩
theorem EncodeLength.stdZ (q : BitVec 6) (r : Reg) : EncodeLength.Statement (.stdZ q r) := ⟨rfl, .inl rfl⟩
theorem EncodeLength.ioIn (d : Reg) (a : IoAddr) : EncodeLength.Statement (.ioIn d a) := ⟨rfl, .inl rfl⟩
theorem EncodeLength.ioOut (a : IoAddr) (r : Reg) : EncodeLength.Statement (.ioOut a r) := ⟨rfl, .inl rfl⟩
theorem EncodeLength.push (r : Reg) : EncodeLength.Statement (.push r) := ⟨rfl, .inl rfl⟩
theorem EncodeLength.pop (d : Reg) : EncodeLength.Statement (.pop d) := ⟨rfl, .inl rfl⟩
theorem EncodeLength.lsl (d : Reg) : EncodeLength.Statement (.lsl d) := ⟨rfl, .inl rfl⟩
theorem EncodeLength.lsr (d : Reg) : EncodeLength.Statement (.lsr d) := ⟨rfl, .inl rfl⟩
theorem EncodeLength.rol (d : Reg) : EncodeLength.Statement (.rol d) := ⟨rfl, .inl rfl⟩
theorem EncodeLength.ror (d : Reg) : EncodeLength.Statement (.ror d) := ⟨rfl, .inl rfl⟩
theorem EncodeLength.asr (d : Reg) : EncodeLength.Statement (.asr d) := ⟨rfl, .inl rfl⟩
theorem EncodeLength.nop : EncodeLength.Statement .nop := ⟨rfl, .inl rfl⟩
theorem EncodeLength.sei : EncodeLength.Statement .sei := ⟨rfl, .inl rfl⟩
theorem EncodeLength.cli : EncodeLength.Statement .cli := ⟨rfl, .inl rfl⟩
theorem EncodeLength.lpm (d : Reg) : EncodeLength.Statement (.lpm d) := ⟨rfl, .inl rfl⟩
theorem EncodeLength.lpmInc (d : Reg) : EncodeLength.Statement (.lpmInc d) := ⟨rfl, .inl rfl⟩

end Sys2Proof.Laws
end

