-- ==== Sys2Proof/Tests/Slice0.lean ====
section
/-! SUPPORT. The model's own tests: ill-formed terms that the checks refuse, the decoding of one word per constructor written
out from the patterns of R115, single steps whose expected values stand in spec/ (the vectors of 95_test_vectors.md, the
table of R318), and for every statement with hypotheses a concrete state and operands that meet them. -/

namespace Sys2Proof.Machine

/-! ## Helpers -/

/-- The state the vectors of 95_test_vectors.md section 2 start from: pc = 0x0100, SP = 0x085F, SREG = 0x00. -/
def base : State := (State.reset.setSp 0x085F).setPc 0x0100

/-- `s` with one or two instruction words at pc. -/
def load (s : State) (ws : List Word) : State :=
  match ws with
  | [] => s
  | [w] => s.setFlashWord s.pc w
  | w :: w2 :: _ => (s.setFlashWord s.pc w).setFlashWord (s.pc + 1) w2

/-- What `f` reads of the state after one step over the words `ws` at pc; none if the step stops. -/
def after {α : Type} (s : State) (ws : List Word) (f : State → α) : Option α :=
  match step (load s ws) with
  | .next t => some (f t)
  | .fault _ => none
  | .refused _ => none

/-- The start of the worked sequence R318: one source T, vector 0x0004, requested up to the entry. -/
def irqStart : State :=
  { load { base with cfg := { Config.testConfiguration with irq := [⟨"T", 0x0004, 0⟩] }, requests := [[0], [0], [0]] }
      [0x9478, 0x0000] with
    flash := [(0x0008, 0x18), (0x0009, 0x95), (0x0200, 0x78), (0x0201, 0x94), (0x0202, 0x00), (0x0203, 0x00), (0x0204, 0x00),
      (0x0205, 0x00)] }

/-- The boundary before the entry of R318 (its row 2). -/
def irqReady : State := { irqStart with pc := 0x0102, sreg := 0x80, requests := [[0]] }

/-- The state after the entry of R318 (its row 3). -/
def irqEntered : State :=
  { irqStart with pc := 0x0004, sp := 0x085D, requests := [], ram := [(0x085E, 0x01), (0x085F, 0x02)] }

/-! ## WellFormed refuses each ill-formed term -/

theorem test_illFormed_lds : (Instr.lds 15 0x0100).wellFormed Config.testConfiguration = false := by decide
theorem test_illFormed_jmp : (Instr.jmp 0x10000).wellFormed Config.testConfiguration = false := by decide
theorem test_illFormed_call : (Instr.call 0x4000).wellFormed { Config.testConfiguration with pcBits := 14 } = false := by
  decide
theorem test_illFormed_ldXInc : (Instr.ldXInc 26).wellFormed Config.testConfiguration = false := by decide
theorem test_illFormed_ldXDec : (Instr.ldXDec 27).wellFormed Config.testConfiguration = false := by decide
theorem test_illFormed_ldYInc : (Instr.ldYInc 28).wellFormed Config.testConfiguration = false := by decide
theorem test_illFormed_ldYDec : (Instr.ldYDec 29).wellFormed Config.testConfiguration = false := by decide
theorem test_illFormed_ldZInc : (Instr.ldZInc 30).wellFormed Config.testConfiguration = false := by decide
theorem test_illFormed_ldZDec : (Instr.ldZDec 31).wellFormed Config.testConfiguration = false := by decide
theorem test_illFormed_stXInc : (Instr.stXInc 27).wellFormed Config.testConfiguration = false := by decide
theorem test_illFormed_stXDec : (Instr.stXDec 26).wellFormed Config.testConfiguration = false := by decide
theorem test_illFormed_stYInc : (Instr.stYInc 29).wellFormed Config.testConfiguration = false := by decide
theorem test_illFormed_stYDec : (Instr.stYDec 28).wellFormed Config.testConfiguration = false := by decide
theorem test_illFormed_stZInc : (Instr.stZInc 31).wellFormed Config.testConfiguration = false := by decide
theorem test_illFormed_stZDec : (Instr.stZDec 30).wellFormed Config.testConfiguration = false := by decide
theorem test_illFormed_lpmInc : (Instr.lpmInc 31).wellFormed Config.testConfiguration = false := by decide
/-- The neighbours of the ill-formed terms are admitted (R22, R108, R250). -/
theorem test_wellFormed_neighbours :
    (Instr.lds 16 0).wellFormed Config.testConfiguration = true ∧
    (Instr.jmp 0xFFFF).wellFormed Config.testConfiguration = true ∧
    (Instr.ldXInc 28).wellFormed Config.testConfiguration = true ∧
    (Instr.ldX 26).wellFormed Config.testConfiguration = true := by decide

/-! ## Decoding: one word per constructor, each written out from its row's pattern in R115; a second spelling's word decodes
to the form it stands for (R117) -/

theorem test_decode_add : decode (bytesOfWord 0b0000110101101101) = .ok (.add 22 13, []) := by decide
theorem test_decode_adc : decode (bytesOfWord 0b0001110101101101) = .ok (.adc 22 13, []) := by decide
theorem test_decode_sub : decode (bytesOfWord 0b0001100101101101) = .ok (.sub 22 13, []) := by decide
theorem test_decode_subi : decode (bytesOfWord 0b0101101001100110) = .ok (.subi 6 0xa6, []) := by decide
theorem test_decode_sbc : decode (bytesOfWord 0b0000100101101101) = .ok (.sbc 22 13, []) := by decide
theorem test_decode_sbci : decode (bytesOfWord 0b0100101001100110) = .ok (.sbci 6 0xa6, []) := by decide
theorem test_decode_inc : decode (bytesOfWord 0b1001010101100011) = .ok (.inc 22, []) := by decide
theorem test_decode_dec : decode (bytesOfWord 0b1001010101101010) = .ok (.dec 22, []) := by decide
theorem test_decode_neg : decode (bytesOfWord 0b1001010101100001) = .ok (.neg 22, []) := by decide
theorem test_decode_and : decode (bytesOfWord 0b0010000101101101) = .ok (.and 22 13, []) := by decide
theorem test_decode_andi : decode (bytesOfWord 0b0111101001100110) = .ok (.andi 6 0xa6, []) := by decide
theorem test_decode_or : decode (bytesOfWord 0b0010100101101101) = .ok (.or 22 13, []) := by decide
theorem test_decode_ori : decode (bytesOfWord 0b0110101001100110) = .ok (.ori 6 0xa6, []) := by decide
theorem test_decode_eor : decode (bytesOfWord 0b0010010101101101) = .ok (.eor 22 13, []) := by decide
theorem test_decode_com : decode (bytesOfWord 0b1001010101100000) = .ok (.com 22, []) := by decide
theorem test_decode_clr : decode (bytesOfWord 0b0010011101100110) = .ok (.eor 22 22, []) := by decide
theorem test_decode_ser : decode (bytesOfWord 0b1110111101101111) = .ok (.ldi 6 0xff, []) := by decide
theorem test_decode_rjmp : decode (bytesOfWord 0b1100101100000101) = .ok (.rjmp 0xb05, []) := by decide
theorem test_decode_jmp :
    decode (bytesOfWord 0b1001010000001100 ++ bytesOfWord 0b1010010111000011) = .ok (.jmp 0xa5c3, []) := by
  decide
theorem test_decode_rcall : decode (bytesOfWord 0b1101101100000101) = .ok (.rcall 0xb05, []) := by decide
theorem test_decode_call :
    decode (bytesOfWord 0b1001010000001110 ++ bytesOfWord 0b1010010111000011) = .ok (.call 0xa5c3, []) := by
  decide
theorem test_decode_ret : decode (bytesOfWord 0b1001010100001000) = .ok (.ret, []) := by decide
theorem test_decode_reti : decode (bytesOfWord 0b1001010100011000) = .ok (.reti, []) := by decide
theorem test_decode_cp : decode (bytesOfWord 0b0001010101101101) = .ok (.cp 22 13, []) := by decide
theorem test_decode_cpc : decode (bytesOfWord 0b0000010101101101) = .ok (.cpc 22 13, []) := by decide
theorem test_decode_cpi : decode (bytesOfWord 0b0011101001100110) = .ok (.cpi 6 0xa6, []) := by decide
theorem test_decode_tst : decode (bytesOfWord 0b0010001101100110) = .ok (.and 22 22, []) := by decide
theorem test_decode_brbs : decode (bytesOfWord 0b1111001010110101) = .ok (.brbs 5 0x56, []) := by decide
theorem test_decode_brbc : decode (bytesOfWord 0b1111011010110101) = .ok (.brbc 5 0x56, []) := by decide
theorem test_decode_breq : decode (bytesOfWord 0b1111001010110001) = .ok (.brbs 1 0x56, []) := by decide
theorem test_decode_brne : decode (bytesOfWord 0b1111011010110001) = .ok (.brbc 1 0x56, []) := by decide
theorem test_decode_brcs : decode (bytesOfWord 0b1111001010110000) = .ok (.brbs 0 0x56, []) := by decide
theorem test_decode_brcc : decode (bytesOfWord 0b1111011010110000) = .ok (.brbc 0 0x56, []) := by decide
theorem test_decode_brsh : decode (bytesOfWord 0b1111011010110000) = .ok (.brbc 0 0x56, []) := by decide
theorem test_decode_brlo : decode (bytesOfWord 0b1111001010110000) = .ok (.brbs 0 0x56, []) := by decide
theorem test_decode_mov : decode (bytesOfWord 0b0010110101101101) = .ok (.mov 22 13, []) := by decide
theorem test_decode_ldi : decode (bytesOfWord 0b1110101001100110) = .ok (.ldi 6 0xa6, []) := by decide
theorem test_decode_lds :
    decode (bytesOfWord 0b1001000101100000 ++ bytesOfWord 0b0001001000110100) = .ok (.lds 22 0x1234, []) := by
  decide
theorem test_decode_ldX : decode (bytesOfWord 0b1001000101101100) = .ok (.ldX 22, []) := by decide
theorem test_decode_ldXInc : decode (bytesOfWord 0b1001000101101101) = .ok (.ldXInc 22, []) := by decide
theorem test_decode_ldXDec : decode (bytesOfWord 0b1001000101101110) = .ok (.ldXDec 22, []) := by decide
theorem test_decode_ldY : decode (bytesOfWord 0b1000000101101000) = .ok (.lddY 22 0, []) := by decide
theorem test_decode_ldYInc : decode (bytesOfWord 0b1001000101101001) = .ok (.ldYInc 22, []) := by decide
theorem test_decode_ldYDec : decode (bytesOfWord 0b1001000101101010) = .ok (.ldYDec 22, []) := by decide
theorem test_decode_lddY : decode (bytesOfWord 0b1010010101101101) = .ok (.lddY 22 45, []) := by decide
theorem test_decode_ldZ : decode (bytesOfWord 0b1000000101100000) = .ok (.lddZ 22 0, []) := by decide
theorem test_decode_ldZInc : decode (bytesOfWord 0b1001000101100001) = .ok (.ldZInc 22, []) := by decide
theorem test_decode_ldZDec : decode (bytesOfWord 0b1001000101100010) = .ok (.ldZDec 22, []) := by decide
theorem test_decode_lddZ : decode (bytesOfWord 0b1010010101100101) = .ok (.lddZ 22 45, []) := by decide
theorem test_decode_sts :
    decode (bytesOfWord 0b1001001011010000 ++ bytesOfWord 0b0001001000110100) = .ok (.sts 0x1234 13, []) := by
  decide
theorem test_decode_stX : decode (bytesOfWord 0b1001001011011100) = .ok (.stX 13, []) := by decide
theorem test_decode_stXInc : decode (bytesOfWord 0b1001001011011101) = .ok (.stXInc 13, []) := by decide
theorem test_decode_stXDec : decode (bytesOfWord 0b1001001011011110) = .ok (.stXDec 13, []) := by decide
theorem test_decode_stY : decode (bytesOfWord 0b1000001011011000) = .ok (.stdY 0 13, []) := by decide
theorem test_decode_stYInc : decode (bytesOfWord 0b1001001011011001) = .ok (.stYInc 13, []) := by decide
theorem test_decode_stYDec : decode (bytesOfWord 0b1001001011011010) = .ok (.stYDec 13, []) := by decide
theorem test_decode_stdY : decode (bytesOfWord 0b1010011011011101) = .ok (.stdY 45 13, []) := by decide
theorem test_decode_stZ : decode (bytesOfWord 0b1000001011010000) = .ok (.stdZ 0 13, []) := by decide
theorem test_decode_stZInc : decode (bytesOfWord 0b1001001011010001) = .ok (.stZInc 13, []) := by decide
theorem test_decode_stZDec : decode (bytesOfWord 0b1001001011010010) = .ok (.stZDec 13, []) := by decide
theorem test_decode_stdZ : decode (bytesOfWord 0b1010011011010101) = .ok (.stdZ 45 13, []) := by decide
theorem test_decode_ioIn : decode (bytesOfWord 0b1011011101100101) = .ok (.ioIn 22 53, []) := by decide
theorem test_decode_ioOut : decode (bytesOfWord 0b1011111011010101) = .ok (.ioOut 53 13, []) := by decide
theorem test_decode_push : decode (bytesOfWord 0b1001001011011111) = .ok (.push 13, []) := by decide
theorem test_decode_pop : decode (bytesOfWord 0b1001000101101111) = .ok (.pop 22, []) := by decide
theorem test_decode_lsl : decode (bytesOfWord 0b0000111101100110) = .ok (.add 22 22, []) := by decide
theorem test_decode_lsr : decode (bytesOfWord 0b1001010101100110) = .ok (.lsr 22, []) := by decide
theorem test_decode_rol : decode (bytesOfWord 0b0001111101100110) = .ok (.adc 22 22, []) := by decide
theorem test_decode_ror : decode (bytesOfWord 0b1001010101100111) = .ok (.ror 22, []) := by decide
theorem test_decode_asr : decode (bytesOfWord 0b1001010101100101) = .ok (.asr 22, []) := by decide
theorem test_decode_nop : decode (bytesOfWord 0b0000000000000000) = .ok (.nop, []) := by decide
theorem test_decode_sei : decode (bytesOfWord 0b1001010001111000) = .ok (.sei, []) := by decide
theorem test_decode_cli : decode (bytesOfWord 0b1001010011111000) = .ok (.cli, []) := by decide
theorem test_decode_lpm : decode (bytesOfWord 0b1001000101100100) = .ok (.lpm 22, []) := by decide
theorem test_decode_lpmInc : decode (bytesOfWord 0b1001000101100101) = .ok (.lpmInc 22, []) := by decide

/-- The upper six bits of a 22-bit target stand in the first word (R108; 95_test_vectors.md 2.11, word 0x95FD). -/
theorem test_decode_jmp_upper :
    decode (bytesOfWord 0b1001010111111101 ++ bytesOfWord 0) = .ok (.jmp 0x3F0000, []) := by decide

/-- Words outside the excerpt (95_test_vectors.md 2.11): erased flash, MOVW, and a first word without its second. -/
theorem test_decode_outside :
    decode (bytesOfWord 0xFFFF) = .error (.notInExcerpt 0xFFFF) ∧
    decode (bytesOfWord 0x0100) = .error (.notInExcerpt 0x0100) ∧
    decode (bytesOfWord 0x9100) = .error .truncated := by decide

/-! ## Single steps -/

/-- ADD R16, R17: R141; 95_test_vectors.md 2.1. -/
theorem test_add_1 :
    after (base |>.setReg 16 0x01 |>.setReg 17 0x01 |>.setSreg 0xFF) [0x0F01] (fun t => (t.reg 16, t.sreg, t.pc)) =
      some (0x02, 0xC0, 0x0101) := by decide
/-- ADD R16, R17: R141; 95_test_vectors.md 2.1. -/
theorem test_add_2 :
    after (base |>.setReg 16 0x80 |>.setReg 17 0x80 |>.setSreg 0x00) [0x0F01] (fun t => (t.reg 16, t.sreg, t.pc)) =
      some (0x00, 0x1B, 0x0101) := by decide
/-- ADC R16, R17: R142; 95_test_vectors.md 2.1. -/
theorem test_adc_1 :
    after (base |>.setReg 16 0x7F |>.setReg 17 0x00 |>.setSreg 0x01) [0x1F01] (fun t => (t.reg 16, t.sreg, t.pc)) =
      some (0x80, 0x2C, 0x0101) := by decide
/-- ADC R16, R17: R142; 95_test_vectors.md 2.1. -/
theorem test_adc_2 :
    after (base |>.setReg 16 0xFF |>.setReg 17 0xFF |>.setSreg 0x01) [0x1F01] (fun t => (t.reg 16, t.sreg, t.pc)) =
      some (0xFF, 0x35, 0x0101) := by decide
/-- SUB R7, R7: R143; 95_test_vectors.md 2.1. -/
theorem test_sub_1 :
    after (base |>.setReg 7 0x9C |>.setSreg 0x35) [0x1877] (fun t => (t.reg 7, t.sreg, t.pc)) =
      some (0x00, 0x02, 0x0101) := by decide
/-- SUB R16, R17: R143; 95_test_vectors.md 2.1. -/
theorem test_sub_2 :
    after (base |>.setReg 16 0x00 |>.setReg 17 0x01 |>.setSreg 0x00) [0x1B01] (fun t => (t.reg 16, t.sreg, t.pc)) =
      some (0xFF, 0x35, 0x0101) := by decide
/-- SUBI R31, 0x01: R144; 95_test_vectors.md 2.1. -/
theorem test_subi_1 :
    after (base |>.setReg 31 0x00 |>.setSreg 0x80) [0x50F1] (fun t => (t.reg 31, t.sreg, t.pc)) =
      some (0xFF, 0xB5, 0x0101) := by decide
/-- SUBI R16, 0x7F: R144; 95_test_vectors.md 2.1. -/
theorem test_subi_2 :
    after (base |>.setReg 16 0x80 |>.setSreg 0x00) [0x570F] (fun t => (t.reg 16, t.sreg, t.pc)) =
      some (0x01, 0x38, 0x0101) := by decide
/-- SBC R16, R17: R145; 95_test_vectors.md 2.1. -/
theorem test_sbc_1 :
    after (base |>.setReg 16 0x00 |>.setReg 17 0x00 |>.setSreg 0x03) [0x0B01] (fun t => (t.reg 16, t.sreg, t.pc)) =
      some (0xFF, 0x35, 0x0101) := by decide
/-- SBC R16, R17: R145; 95_test_vectors.md 2.1. -/
theorem test_sbc_2 :
    after (base |>.setReg 16 0x80 |>.setReg 17 0x7F |>.setSreg 0x01) [0x0B01] (fun t => (t.reg 16, t.sreg, t.pc)) =
      some (0x00, 0x38, 0x0101) := by decide
/-- SBCI R20, 0x00: R146; 95_test_vectors.md 2.1. -/
theorem test_sbci_1 :
    after (base |>.setReg 20 0x00 |>.setSreg 0x03) [0x4040] (fun t => (t.reg 20, t.sreg, t.pc)) =
      some (0xFF, 0x35, 0x0101) := by decide
/-- SBCI R20, 0x00: R146; 95_test_vectors.md 2.1. -/
theorem test_sbci_2 :
    after (base |>.setReg 20 0x01 |>.setSreg 0x03) [0x4040] (fun t => (t.reg 20, t.sreg, t.pc)) =
      some (0x00, 0x02, 0x0101) := by decide
/-- INC R3: R147; 95_test_vectors.md 2.1. -/
theorem test_inc_1 :
    after (base |>.setReg 3 0x7F |>.setSreg 0x21) [0x9433] (fun t => (t.reg 3, t.sreg, t.pc)) =
      some (0x80, 0x2D, 0x0101) := by decide
/-- INC R3: R147; 95_test_vectors.md 2.1. -/
theorem test_inc_2 :
    after (base |>.setReg 3 0x80 |>.setSreg 0x21) [0x9433] (fun t => (t.reg 3, t.sreg, t.pc)) =
      some (0x81, 0x35, 0x0101) := by decide
/-- DEC R3: R148; 95_test_vectors.md 2.1. -/
theorem test_dec_1 :
    after (base |>.setReg 3 0x80 |>.setSreg 0x01) [0x943A] (fun t => (t.reg 3, t.sreg, t.pc)) =
      some (0x7F, 0x19, 0x0101) := by decide
/-- DEC R3: R148; 95_test_vectors.md 2.1. -/
theorem test_dec_2 :
    after (base |>.setReg 3 0x00 |>.setSreg 0x01) [0x943A] (fun t => (t.reg 3, t.sreg, t.pc)) =
      some (0xFF, 0x15, 0x0101) := by decide
/-- NEG R3: R149; 95_test_vectors.md 2.1. -/
theorem test_neg_1 :
    after (base |>.setReg 3 0x01 |>.setSreg 0x00) [0x9431] (fun t => (t.reg 3, t.sreg, t.pc)) =
      some (0xFF, 0x35, 0x0101) := by decide
/-- NEG R3: R149; 95_test_vectors.md 2.1. -/
theorem test_neg_2 :
    after (base |>.setReg 3 0x08 |>.setSreg 0x00) [0x9431] (fun t => (t.reg 3, t.sreg, t.pc)) =
      some (0xF8, 0x35, 0x0101) := by decide
/-- AND R16, R17: R150; 95_test_vectors.md 2.2. -/
theorem test_and_1 :
    after (base |>.setReg 16 0x0F |>.setReg 17 0xF0 |>.setSreg 0x08) [0x2301] (fun t => (t.reg 16, t.sreg, t.pc)) =
      some (0x00, 0x02, 0x0101) := by decide
/-- ANDI R18, 0x00: R151; 95_test_vectors.md 2.2. -/
theorem test_andi_1 :
    after (base |>.setReg 18 0xAA |>.setSreg 0x1D) [0x7020] (fun t => (t.reg 18, t.sreg, t.pc)) =
      some (0x00, 0x03, 0x0101) := by decide
/-- OR R2, R3: R152; 95_test_vectors.md 2.2. -/
theorem test_or_1 :
    after (base |>.setReg 2 0x81 |>.setReg 3 0x18 |>.setSreg 0x09) [0x2823] (fun t => (t.reg 2, t.sreg, t.pc)) =
      some (0x99, 0x15, 0x0101) := by decide
/-- ORI R16, 0xFF: R153; 95_test_vectors.md 2.2. -/
theorem test_ori_1 :
    after (base |>.setReg 16 0x00 |>.setSreg 0x02) [0x6F0F] (fun t => (t.reg 16, t.sreg, t.pc)) =
      some (0xFF, 0x14, 0x0101) := by decide
/-- EOR R0, R1: R154; 95_test_vectors.md 2.2. -/
theorem test_eor_1 :
    after (base |>.setReg 0 0xFF |>.setReg 1 0x0F |>.setSreg 0x01) [0x2401] (fun t => (t.reg 0, t.sreg, t.pc)) =
      some (0xF0, 0x15, 0x0101) := by decide
/-- COM R4: R155; 95_test_vectors.md 2.2. -/
theorem test_com_1 :
    after (base |>.setReg 4 0x00 |>.setSreg 0x08) [0x9440] (fun t => (t.reg 4, t.sreg, t.pc)) =
      some (0xFF, 0x15, 0x0101) := by decide
/-- COM R4: R155; 95_test_vectors.md 2.2. -/
theorem test_com_2 :
    after (base |>.setReg 4 0x5A |>.setSreg 0x20) [0x9440] (fun t => (t.reg 4, t.sreg, t.pc)) =
      some (0xA5, 0x35, 0x0101) := by decide
/-- CLR R9: R156; 95_test_vectors.md 2.2. -/
theorem test_clr_1 :
    after (base |>.setReg 9 0x77 |>.setSreg 0x3D) [0x2499] (fun t => (t.reg 9, t.sreg, t.pc)) =
      some (0x00, 0x23, 0x0101) := by decide
/-- SER R20: R157; 95_test_vectors.md 2.2. -/
theorem test_ser_1 :
    after (base |>.setSreg 0xA5) [0xEF4F] (fun t => (t.reg 20, t.sreg, t.pc)) =
      some (0xFF, 0xA5, 0x0101) := by decide
/-- RJMP +5: R181; 95_test_vectors.md 2.5. -/
theorem test_rjmp_1 :
    after (base) [0xC005] (fun t => (t.pc, t.sreg)) =
      some (0x0106, 0x00) := by decide
/-- RJMP -1: R181; 95_test_vectors.md 2.5. -/
theorem test_rjmp_2 :
    after (base) [0xCFFF] (fun t => (t.pc, t.sreg)) =
      some (0x0100, 0x00) := by decide
/-- JMP 0x0000: R182; 95_test_vectors.md 2.5. -/
theorem test_jmp_1 :
    after (base |>.setSreg 0xFF) [0x940C, 0x0000] (fun t => (t.sreg, t.pc)) =
      some (0xFF, 0x0000) := by decide
/-- RCALL +0x20: R183; 95_test_vectors.md 2.5. -/
theorem test_rcall_1 :
    after (base) [0xD020] (fun t => (t.ramByte 0x085E, t.ramByte 0x085F, t.sp, t.pc, t.sreg)) =
      some (some 0x01, some 0x01, 0x085D, 0x0121, 0x00) := by decide
/-- RCALL -0x101: R183; 95_test_vectors.md 2.5. -/
theorem test_rcall_2 :
    after (base) [0xDEFF] (fun t => (t.ramByte 0x085E, t.ramByte 0x085F, t.sp, t.pc, t.sreg)) =
      some (some 0x01, some 0x01, 0x085D, 0x0000, 0x00) := by decide
/-- CALL 0x0ABC: R184; 95_test_vectors.md 2.5. -/
theorem test_call_1 :
    after (base) [0x940E, 0x0ABC] (fun t => (t.ramByte 0x085E, t.ramByte 0x085F, t.sp, t.pc, t.sreg)) =
      some (some 0x01, some 0x02, 0x085D, 0x0ABC, 0x00) := by decide
/-- RET: R185; 95_test_vectors.md 2.5. -/
theorem test_ret_1 :
    after (base |>.setRam 0x0101 0x3F |>.setRam 0x0102 0xFF |>.setSreg 0x7F |>.setSp 0x0100) [0x9508] (fun t => (t.sp, t.sreg, t.pc)) =
      some (0x0102, 0x7F, 0x3FFF) := by decide
/-- RETI: R186; 95_test_vectors.md 2.5. -/
theorem test_reti_1 :
    after (base |>.setRam 0x085E 0x12 |>.setRam 0x085F 0x34 |>.setSreg 0x03 |>.setSp 0x085D) [0x9518] (fun t => (t.sp, t.sreg, t.irqHold, t.pc)) =
      some (0x085F, 0x83, true, 0x1234) := by decide
/-- RETI: R186; 95_test_vectors.md 2.5. -/
theorem test_reti_2 :
    after (base |>.setRam 0x085E 0x00 |>.setRam 0x085F 0x10 |>.setSreg 0x80 |>.setSp 0x085D) [0x9518] (fun t => (t.sp, t.sreg, t.irqHold, t.pc)) =
      some (0x085F, 0x80, true, 0x0010) := by decide
/-- CP R16, R17: R187; 95_test_vectors.md 2.4. -/
theorem test_cp_1 :
    after (base |>.setReg 16 0x05 |>.setReg 17 0x06 |>.setSreg 0x00) [0x1701] (fun t => (t.reg 16, t.sreg, t.pc)) =
      some (0x05, 0x35, 0x0101) := by decide
/-- CP R16, R17: R187; 95_test_vectors.md 2.4. -/
theorem test_cp_2 :
    after (base |>.setReg 16 0x80 |>.setReg 17 0x7F |>.setSreg 0x00) [0x1701] (fun t => (t.reg 16, t.sreg, t.pc)) =
      some (0x80, 0x38, 0x0101) := by decide
/-- CPC R16, R17: R188; 95_test_vectors.md 2.4. -/
theorem test_cpc_1 :
    after (base |>.setReg 16 0x12 |>.setReg 17 0x12 |>.setSreg 0x03) [0x0701] (fun t => (t.reg 16, t.sreg, t.pc)) =
      some (0x12, 0x35, 0x0101) := by decide
/-- CPC R16, R17: R188; 95_test_vectors.md 2.4. -/
theorem test_cpc_2 :
    after (base |>.setReg 16 0x80 |>.setReg 17 0x00 |>.setSreg 0x01) [0x0701] (fun t => (t.reg 16, t.sreg, t.pc)) =
      some (0x80, 0x38, 0x0101) := by decide
/-- CPI R16, 0x01: R189; 95_test_vectors.md 2.4. -/
theorem test_cpi_1 :
    after (base |>.setReg 16 0x00 |>.setSreg 0x00) [0x3001] (fun t => (t.reg 16, t.sreg, t.pc)) =
      some (0x00, 0x35, 0x0101) := by decide
/-- CPI R25, 0xFF: R189; 95_test_vectors.md 2.4. -/
theorem test_cpi_2 :
    after (base |>.setReg 25 0xFF |>.setSreg 0x80) [0x3F9F] (fun t => (t.reg 25, t.sreg, t.pc)) =
      some (0xFF, 0x82, 0x0101) := by decide
/-- TST R10: R190; 95_test_vectors.md 2.4. -/
theorem test_tst_1 :
    after (base |>.setReg 10 0x7F |>.setSreg 0x1E) [0x20AA] (fun t => (t.reg 10, t.sreg, t.pc)) =
      some (0x7F, 0x00, 0x0101) := by decide
/-- BRBS 1, -3 (BREQ -3): R191, R193; 95_test_vectors.md 2.6. -/
theorem test_brbs_1 :
    after (base |>.setSreg 0x02) [0xF3E9] (fun t => (t.sreg, t.pc)) =
      some (0x02, 0x00FE) := by decide
/-- BRBS 1, -3 (BREQ -3): R191, R193; 95_test_vectors.md 2.6. -/
theorem test_brbs_2 :
    after (base |>.setSreg 0xFD) [0xF3E9] (fun t => (t.sreg, t.pc)) =
      some (0xFD, 0x0101) := by decide
/-- BRBC 1, -3 (BRNE -3): R192, R194; 95_test_vectors.md 2.6. -/
theorem test_brbc_1 :
    after (base |>.setSreg 0x02) [0xF7E9] (fun t => (t.sreg, t.pc)) =
      some (0x02, 0x0101) := by decide
/-- BRBC 0, +5 (BRCC/BRSH +5): R192, R196, R197; 95_test_vectors.md 2.6. -/
theorem test_brbc_2 :
    after (base |>.setSreg 0x01) [0xF428] (fun t => (t.sreg, t.pc)) =
      some (0x01, 0x0101) := by decide
/-- BREQ +2: R193; 95_test_vectors.md 2.6. -/
theorem test_breq_1 :
    after (base |>.setSreg 0x02) [0xF011] (fun t => (t.sreg, t.pc)) =
      some (0x02, 0x0103) := by decide
/-- BRNE -64 at 0x0010: R194; 95_test_vectors.md 2.6. -/
theorem test_brne_1 :
    after (base |>.setSreg 0x00 |>.setPc 0x0010) [0xF601] (fun t => (t.sreg, t.pc)) =
      some (0x00, 0xFFD1) := by decide
/-- BRCS +10 at 0x0100: R195, its example. -/
theorem test_brcs_1 :
    after (base |>.setSreg 0x01) [0xF050] (fun t => (t.sreg, t.pc)) =
      some (0x01, 0x010B) := by decide
/-- BRCC +5 at 0x0100: R196, its example. -/
theorem test_brcc_1 :
    after (base |>.setSreg 0x00) [0xF428] (fun t => (t.sreg, t.pc)) =
      some (0x00, 0x0106) := by decide
/-- BRSH +5 at 0x0100: R197; 95_test_vectors.md 2.6. -/
theorem test_brsh_1 :
    after (base |>.setSreg 0x01) [0xF428] (fun t => (t.sreg, t.pc)) =
      some (0x01, 0x0101) := by decide
/-- BRLO +63: R198; 95_test_vectors.md 2.6. -/
theorem test_brlo_1 :
    after (base |>.setSreg 0x01 |>.setPc 0x3FF0) [0xF1F8] (fun t => (t.sreg, t.pc)) =
      some (0x01, 0x4030) := by decide
/-- MOV R1, R30: R220; 95_test_vectors.md 2.7. -/
theorem test_mov_1 :
    after (base |>.setReg 30 0x5A |>.setSreg 0xFF) [0x2E1E] (fun t => (t.reg 1, t.sreg, t.pc)) =
      some (0x5A, 0xFF, 0x0101) := by decide
/-- LDI R16, 0xA5: R221; 95_test_vectors.md 2.7. -/
theorem test_ldi_1 :
    after (base |>.setSreg 0x02) [0xEA05] (fun t => (t.reg 16, t.sreg, t.pc)) =
      some (0xA5, 0x02, 0x0101) := by decide
/-- LDS R18, 0x005F: R222; 95_test_vectors.md 2.7. -/
theorem test_lds_1 :
    after (base |>.setSreg 0x35) [0x9120, 0x005F] (fun t => (t.reg 18, t.sreg, t.pc)) =
      some (0x35, 0x35, 0x0102) := by decide
/-- LD R0, X: R223; 95_test_vectors.md 2.7. -/
theorem test_ldX_1 :
    after (base |>.setPair .x 0x0200 |>.setRam 0x0200 0xAB) [0x900C] (fun t => (t.reg 0, t.pc, t.sreg)) =
      some (0xAB, 0x0101, 0x00) := by decide
/-- LD R0, X+: R224; 95_test_vectors.md 2.7. -/
theorem test_ldXInc_1 :
    after (base |>.setPair .x 0x02FF |>.setRam 0x02FF 0xCD) [0x900D] (fun t => (t.reg 0, t.reg 26, t.reg 27, t.pair .x, t.pc, t.sreg)) =
      some (0xCD, 0x00, 0x03, 0x0300, 0x0101, 0x00) := by decide
/-- LD R0, -X: R225; 95_test_vectors.md 2.7. -/
theorem test_ldXDec_1 :
    after (base |>.setPair .x 0x0300 |>.setRam 0x02FF 0xCD) [0x900E] (fun t => (t.reg 0, t.reg 26, t.reg 27, t.pair .x, t.pc, t.sreg)) =
      some (0xCD, 0xFF, 0x02, 0x02FF, 0x0101, 0x00) := by decide
/-- LD R5, Y: R226; 95_test_vectors.md 2.7. -/
theorem test_ldY_1 :
    after (base |>.setPair .y 0x0060 |>.setRam 0x0060 0x01) [0x8058] (fun t => (t.reg 5, t.pc, t.sreg)) =
      some (0x01, 0x0101, 0x00) := by decide
/-- LD R5, Y+: R227; 95_test_vectors.md 2.7. -/
theorem test_ldYInc_1 :
    after (base |>.setPair .y 0x0060 |>.setRam 0x0060 0x01) [0x9059] (fun t => (t.reg 5, t.reg 28, t.pair .y, t.pc, t.sreg)) =
      some (0x01, 0x61, 0x0061, 0x0101, 0x00) := by decide
/-- LD R5, -Y: R228; 95_test_vectors.md 2.7. -/
theorem test_ldYDec_1 :
    after (base |>.setPair .y 0x0860 |>.setRam 0x085F 0x99) [0x905A] (fun t => (t.reg 5, t.reg 28, t.pair .y, t.pc, t.sreg)) =
      some (0x99, 0x5F, 0x085F, 0x0101, 0x00) := by decide
/-- LDD R4, Y+63: R229; 95_test_vectors.md 2.7. -/
theorem test_lddY_1 :
    after (base |>.setPair .y 0x0200 |>.setRam 0x023F 0x3F) [0xAC4F] (fun t => (t.reg 4, t.pc, t.sreg)) =
      some (0x3F, 0x0101, 0x00) := by decide
/-- LD R7, Z: R230; 95_test_vectors.md 2.7. -/
theorem test_ldZ_1 :
    after (base |>.setPair .z 0x0200 |>.setRam 0x0200 0x10) [0x8070] (fun t => (t.reg 7, t.pc, t.sreg)) =
      some (0x10, 0x0101, 0x00) := by decide
/-- LD R7, Z+: R231; 95_test_vectors.md 2.7. -/
theorem test_ldZInc_1 :
    after (base |>.setPair .z 0x0200 |>.setRam 0x0200 0x10) [0x9071] (fun t => (t.reg 7, t.reg 30, t.pair .z, t.pc, t.sreg)) =
      some (0x10, 0x01, 0x0201, 0x0101, 0x00) := by decide
/-- LD R7, -Z: R232; 95_test_vectors.md 2.7. -/
theorem test_ldZDec_1 :
    after (base |>.setPair .z 0x0200 |>.setRam 0x01FF 0x20) [0x9072] (fun t => (t.reg 7, t.reg 30, t.reg 31, t.pair .z, t.pc, t.sreg)) =
      some (0x20, 0xFF, 0x01, 0x01FF, 0x0101, 0x00) := by decide
/-- LDD R7, Z+2: R233; 95_test_vectors.md 2.7. -/
theorem test_lddZ_1 :
    after (base |>.setPair .z 0x0200 |>.setRam 0x0202 0x30) [0x8072] (fun t => (t.reg 7, t.pc, t.sreg)) =
      some (0x30, 0x0101, 0x00) := by decide
/-- STS 0x005F, R2: R234; 95_test_vectors.md 2.7. -/
theorem test_sts_1 :
    after (base |>.setReg 2 0x81 |>.setSreg 0x00) [0x9220, 0x005F] (fun t => (t.reg 2, t.sreg, t.irqHold, t.pc)) =
      some (0x81, 0x81, true, 0x0102) := by decide
/-- ST X, R1: R235; 95_test_vectors.md 2.7. -/
theorem test_stX_1 :
    after (base |>.setPair .x 0x0200 |>.setReg 1 0x5A) [0x921C] (fun t => (t.reg 1, t.ramByte 0x0200, t.pc, t.sreg)) =
      some (0x5A, some 0x5A, 0x0101, 0x00) := by decide
/-- ST X+, R1: R236; 95_test_vectors.md 2.7. -/
theorem test_stXInc_1 :
    after (base |>.setPair .x 0x00FF |>.setReg 1 0x5A) [0x921D] (fun t => (t.reg 1, t.reg 26, t.reg 27, t.pair .x, t.ramByte 0x00FF, t.pc, t.sreg)) =
      some (0x5A, 0x00, 0x01, 0x0100, some 0x5A, 0x0101, 0x00) := by decide
/-- ST -X, R1: R237; 95_test_vectors.md 2.7. -/
theorem test_stXDec_1 :
    after (base |>.setPair .x 0x0200 |>.setReg 1 0x5A) [0x921E] (fun t => (t.reg 1, t.reg 26, t.reg 27, t.pair .x, t.ramByte 0x01FF, t.pc, t.sreg)) =
      some (0x5A, 0xFF, 0x01, 0x01FF, some 0x5A, 0x0101, 0x00) := by decide
/-- ST Y, R1: R238; 95_test_vectors.md 2.7. -/
theorem test_stY_1 :
    after (base |>.setPair .y 0x0200 |>.setReg 1 0x5A) [0x8218] (fun t => (t.reg 1, t.ramByte 0x0200, t.pc, t.sreg)) =
      some (0x5A, some 0x5A, 0x0101, 0x00) := by decide
/-- ST Y+, R1: R239; 95_test_vectors.md 2.7. -/
theorem test_stYInc_1 :
    after (base |>.setPair .y 0x0200 |>.setReg 1 0x5A) [0x9219] (fun t => (t.reg 1, t.reg 28, t.pair .y, t.ramByte 0x0200, t.pc, t.sreg)) =
      some (0x5A, 0x01, 0x0201, some 0x5A, 0x0101, 0x00) := by decide
/-- ST -Y, R1: R240; 95_test_vectors.md 2.7. -/
theorem test_stYDec_1 :
    after (base |>.setPair .y 0x0200 |>.setReg 1 0x5A) [0x921A] (fun t => (t.reg 1, t.reg 28, t.reg 29, t.pair .y, t.ramByte 0x01FF, t.pc, t.sreg)) =
      some (0x5A, 0xFF, 0x01, 0x01FF, some 0x5A, 0x0101, 0x00) := by decide
/-- STD Y+10, R1: R241; 95_test_vectors.md 2.7. -/
theorem test_stdY_1 :
    after (base |>.setPair .y 0x0200 |>.setReg 1 0x5A) [0x861A] (fun t => (t.reg 1, t.ramByte 0x020A, t.pc, t.sreg)) =
      some (0x5A, some 0x5A, 0x0101, 0x00) := by decide
/-- ST Z, R1: R242; 95_test_vectors.md 2.7. -/
theorem test_stZ_1 :
    after (base |>.setPair .z 0x0200 |>.setReg 1 0x5A) [0x8210] (fun t => (t.reg 1, t.ramByte 0x0200, t.pc, t.sreg)) =
      some (0x5A, some 0x5A, 0x0101, 0x00) := by decide
/-- ST Z+, R1: R243; 95_test_vectors.md 2.7. -/
theorem test_stZInc_1 :
    after (base |>.setPair .z 0x0200 |>.setReg 1 0x5A) [0x9211] (fun t => (t.reg 1, t.reg 30, t.pair .z, t.ramByte 0x0200, t.pc, t.sreg)) =
      some (0x5A, 0x01, 0x0201, some 0x5A, 0x0101, 0x00) := by decide
/-- ST -Z, R1: R244; 95_test_vectors.md 2.7. -/
theorem test_stZDec_1 :
    after (base |>.setPair .z 0x0100 |>.setReg 1 0x5A) [0x9212] (fun t => (t.reg 1, t.reg 30, t.reg 31, t.pair .z, t.ramByte 0x00FF, t.pc, t.sreg)) =
      some (0x5A, 0xFF, 0x00, 0x00FF, some 0x5A, 0x0101, 0x00) := by decide
/-- STD Z+63, R1: R245; 95_test_vectors.md 2.7. -/
theorem test_stdZ_1 :
    after (base |>.setPair .z 0x0200 |>.setReg 1 0x5A) [0xAE17] (fun t => (t.reg 1, t.ramByte 0x023F, t.pc, t.sreg)) =
      some (0x5A, some 0x5A, 0x0101, 0x00) := by decide
/-- IN R16, 0x3F: R246; 95_test_vectors.md 2.8. -/
theorem test_ioIn_1 :
    after (base |>.setSreg 0xA3) [0xB70F] (fun t => (t.reg 16, t.sreg, t.pc)) =
      some (0xA3, 0xA3, 0x0101) := by decide
/-- IN R16, 0x3D: R246; 95_test_vectors.md 2.8. -/
theorem test_ioIn_2 :
    after (base) [0xB70D] (fun t => (t.reg 16, t.pc, t.sreg)) =
      some (0x5F, 0x0101, 0x00) := by decide
/-- OUT 0x3F, R16: R247; 95_test_vectors.md 2.8. -/
theorem test_ioOut_1 :
    after (base |>.setReg 16 0x80 |>.setSreg 0x7F) [0xBF0F] (fun t => (t.reg 16, t.sreg, t.irqHold, t.pc)) =
      some (0x80, 0x80, true, 0x0101) := by decide
/-- OUT 0x3F, R16: R247; 95_test_vectors.md 2.8. -/
theorem test_ioOut_2 :
    after (base |>.setReg 16 0x55 |>.setSreg 0x00) [0xBF0F] (fun t => (t.reg 16, t.sreg, t.pc)) =
      some (0x55, 0x55, 0x0101) := by decide
/-- PUSH R16: R248; 95_test_vectors.md 2.8. -/
theorem test_push_1 :
    after (base |>.setReg 16 0x99) [0x930F] (fun t => (t.reg 16, t.ramByte 0x085F, t.sp, t.pc, t.sreg)) =
      some (0x99, some 0x99, 0x085E, 0x0101, 0x00) := by decide
/-- POP R0: R249; 95_test_vectors.md 2.8. -/
theorem test_pop_1 :
    after (base |>.setRam 0x0060 0x42 |>.setSreg 0xFF |>.setSp 0x005F) [0x900F] (fun t => (t.reg 0, t.sp, t.sreg, t.pc)) =
      some (0x42, 0x0060, 0xFF, 0x0101) := by decide
/-- LSL R6: R270; 95_test_vectors.md 2.3. -/
theorem test_lsl_1 :
    after (base |>.setReg 6 0x40 |>.setSreg 0x01) [0x0C66] (fun t => (t.reg 6, t.sreg, t.pc)) =
      some (0x80, 0x0C, 0x0101) := by decide
/-- LSR R6: R271; 95_test_vectors.md 2.3. -/
theorem test_lsr_1 :
    after (base |>.setReg 6 0x00 |>.setSreg 0x1D) [0x9466] (fun t => (t.reg 6, t.sreg, t.pc)) =
      some (0x00, 0x02, 0x0101) := by decide
/-- LSR R6: R271; 95_test_vectors.md 2.3. -/
theorem test_lsr_2 :
    after (base |>.setReg 6 0x01 |>.setSreg 0x00) [0x9466] (fun t => (t.reg 6, t.sreg, t.pc)) =
      some (0x00, 0x1B, 0x0101) := by decide
/-- ROL R6: R272; 95_test_vectors.md 2.3. -/
theorem test_rol_1 :
    after (base |>.setReg 6 0x48 |>.setSreg 0x01) [0x1C66] (fun t => (t.reg 6, t.sreg, t.pc)) =
      some (0x91, 0x2C, 0x0101) := by decide
/-- ROL R6: R272; 95_test_vectors.md 2.3. -/
theorem test_rol_2 :
    after (base |>.setReg 6 0xFF |>.setSreg 0x01) [0x1C66] (fun t => (t.reg 6, t.sreg, t.pc)) =
      some (0xFF, 0x35, 0x0101) := by decide
/-- ROR R6: R273; 95_test_vectors.md 2.3. -/
theorem test_ror_1 :
    after (base |>.setReg 6 0x00 |>.setSreg 0x01) [0x9467] (fun t => (t.reg 6, t.sreg, t.pc)) =
      some (0x80, 0x0C, 0x0101) := by decide
/-- ROR R6: R273; 95_test_vectors.md 2.3. -/
theorem test_ror_2 :
    after (base |>.setReg 6 0x01 |>.setSreg 0x00) [0x9467] (fun t => (t.reg 6, t.sreg, t.pc)) =
      some (0x00, 0x1B, 0x0101) := by decide
/-- ASR R6: R274; 95_test_vectors.md 2.3. -/
theorem test_asr_1 :
    after (base |>.setReg 6 0x81 |>.setSreg 0x00) [0x9465] (fun t => (t.reg 6, t.sreg, t.pc)) =
      some (0xC0, 0x15, 0x0101) := by decide
/-- ASR R6: R274; 95_test_vectors.md 2.3. -/
theorem test_asr_2 :
    after (base |>.setReg 6 0x01 |>.setSreg 0x00) [0x9465] (fun t => (t.reg 6, t.sreg, t.pc)) =
      some (0x00, 0x1B, 0x0101) := by decide
/-- NOP: R285; 95_test_vectors.md 2.9. -/
theorem test_nop_1 :
    after (base |>.setSreg 0xFF) [0x0000] (fun t => (t.sreg, t.pc)) =
      some (0xFF, 0x0101) := by decide
/-- SEI: R286; 95_test_vectors.md 2.9. -/
theorem test_sei_1 :
    after (base |>.setSreg 0x02) [0x9478] (fun t => (t.sreg, t.irqHold, t.pc)) =
      some (0x82, true, 0x0101) := by decide
/-- SEI: R286; 95_test_vectors.md 2.9. -/
theorem test_sei_2 :
    after (base |>.setSreg 0x80) [0x9478] (fun t => (t.sreg, t.irqHold, t.pc)) =
      some (0x80, true, 0x0101) := by decide
/-- CLI: R287; 95_test_vectors.md 2.9. -/
theorem test_cli_1 :
    after (base |>.setSreg 0x83) [0x94F8] (fun t => (t.sreg, t.pc)) =
      some (0x03, 0x0101) := by decide
/-- LPM R0, Z: R288; 95_test_vectors.md 2.9. -/
theorem test_lpm_1 :
    after (base |>.setPair .z 0x0300 |>.setFlashWord 0x0180 0xBEEF) [0x9004] (fun t => (t.reg 0, t.pc, t.sreg)) =
      some (0xEF, 0x0101, 0x00) := by decide
/-- LPM R0, Z: R288; 95_test_vectors.md 2.9. -/
theorem test_lpm_2 :
    after (base |>.setPair .z 0x0301 |>.setFlashWord 0x0180 0xBEEF) [0x9004] (fun t => (t.reg 0, t.pc, t.sreg)) =
      some (0xBE, 0x0101, 0x00) := by decide
/-- LPM R24, Z+: R289; 95_test_vectors.md 2.9. -/
theorem test_lpmInc_1 :
    after (base |>.setPair .z 0x00FF |>.setFlashWord 0x007F 0x1234) [0x9185] (fun t => (t.reg 24, t.reg 30, t.reg 31, t.pair .z, t.pc, t.sreg)) =
      some (0x12, 0x00, 0x01, 0x0100, 0x0101, 0x00) := by decide

/-! ## Refusals and faults (95_test_vectors.md section 2.10) -/

/-- X3: LDS into R5. -/
theorem test_refuse_lds : step (load base [0x9050, 0x0100]) = .refused (.ldsLowRegister 5) := rfl
/-- X4: CALL 0x3F0000. -/
theorem test_refuse_call : step (load base [0x95FF, 0x0000]) = .refused (.jumpTargetOutsidePcBits 0x3F0000) := rfl
/-- X5: LD R26, X+ and ST -Y, R29. -/
theorem test_refuse_pointer :
    step (load base [0x91AD]) = .refused (.pointerRegisterUpdated 26) ∧
    step (load base [0x93DA]) = .refused (.pointerRegisterUpdated 29) := ⟨rfl, rfl⟩
/-- X6: LPM R31, Z+. -/
theorem test_refuse_lpm : step (load base [0x91F5]) = .refused (.pointerRegisterUpdated 31) := rfl
/-- X9: RET with an empty stack. -/
theorem test_fault_ret : step (load base [0x9508]) = .fault (.noMemory 0x0860) := rfl
/-- R70, R301: a push and a pop at the two ends of the I/O space and of the register file; a CALL whose second byte falls
out of RAM. -/
theorem test_stack_outside_ram :
    exec (.push 16) (base.setSp 0x005F) = .refused (.stackOutsideRam 0x005F) ∧
    exec (.push 16) (base.setSp 0x0000) = .refused (.stackOutsideRam 0x0000) ∧
    exec (.pop 16) (base.setSp 0x005E) = .refused (.stackOutsideRam 0x005F) ∧
    exec (.pop 16) (base.setSp 0xFFFF) = .refused (.stackOutsideRam 0x0000) ∧
    exec (.rcall 0x020) (base.setSp 0x0060) = .refused (.stackOutsideRam 0x005F) := ⟨rfl, rfl, rfl, rfl, rfl⟩
/-- R348: a run ends at the word 0xCFFF, not before it, and not while an enabled source may request. -/
theorem test_finished :
    (load base [0xCFFF]).finished = true ∧ (load base [0x0000]).finished = false ∧
    (load irqReady [0xCFFF]).finished = false ∧
    (endState 1 (load base [0x0000, 0xCFFF])).map (fun t => (t.pc, t.finished)) = some (base.pc + 1, true) := by decide
/-- R27: a fetch above FLASHEND, first word and second word. -/
theorem test_fault_fetch :
    step (base.setPc 0x4000) = .fault (.fetchOutsideFlash 0x4000) ∧
    step (load (base.setPc 0x3FFF) [0x940E]) = .fault (.fetchOutsideFlash 0x4000) := ⟨rfl, rfl⟩
/-- D28: LPM above FLASHEND. -/
theorem test_fault_lpm : step (load (base.setPair .z 0x8000) [0x9004]) = .fault (.lpmOutsideFlash 0x8000) := rfl
/-- R34, R65: OUT to PINA, IN from an address the spec gives no register. -/
theorem test_refuse_io :
    step (load base [0xBB09]) = .refused (.pinWrite 0x19) ∧
    step (load base [0xB700]) = .refused (.unspecifiedIo 0x30) := ⟨rfl, rfl⟩

/-! ## Interrupts: the worked sequence R318, one step each -/

/-- Row 1: SEI executes although T requests. -/
theorem test_irq_sei : (match step irqStart with
    | .next t => some (t.pc, t.sp, t.sreg, t.irqHold) | _ => none) = some (0x0101, 0x085F, 0x80, true) := by decide
/-- Row 2: I = 1 but `irq_hold` = 1, so the NOP executes and clears it. -/
theorem test_irq_held : (match step { irqStart with pc := 0x0101, sreg := 0x80, irqHold := true } with
    | .next t => some (t.pc, t.sp, t.sreg, t.irqHold) | _ => none) = some (0x0102, 0x085F, 0x80, false) := by decide
/-- Row 3: the entry. -/
theorem test_irq_entry : step irqReady = .next irqEntered := rfl
/-- Row 4: RETI. -/
theorem test_irq_reti : (match step irqEntered with
    | .next t => some (t.pc, t.sp, t.sreg, t.irqHold) | _ => none) = some (0x0102, 0x085F, 0x80, true) := by decide
/-- R305, R308: of two requesting sources the one of the smaller rank is taken (the rank's direction: log 13). -/
theorem test_irq_priority :
    highestPriority [⟨"A", 0x0002, 3⟩, ⟨"B", 0x0004, 1⟩, ⟨"C", 0x0006, 2⟩] = some ⟨"B", 0x0004, 1⟩ := by decide

/-! ## Witnesses: for every statement with hypotheses, a concrete state and operands that meet them together -/

theorem witness_EncodeOfDecodeGivesTheBytes : decode [0x01, 0x0F, 0xAA] = .ok (.add 16 17, [0xAA]) := by decide

theorem witness_LengthTestGivesTheLength :
    (encodeWords (.call 0x0ABC)).head? = some 0x940E ∧ (encodeWords (.add 16 17)).head? = some 0x0F01 := by decide

theorem witness_StepRunsTheDecodedInstruction :
    (load base [0x940E, 0x0ABC]).dueInterrupt = none ∧
    (load base [0x940E, 0x0ABC]).pc.toNat < (load base [0x940E, 0x0ABC]).cfg.flashWords ∧
    decode (fetchBytes (load base [0x940E, 0x0ABC])) = .ok (.call 0x0ABC, []) := by decide

/-- At the last two words of program memory. -/
theorem witness_PlacedInstructionIsTheOneRun :
    let s := load (base.setPc 0x3FFE) [0x940E, 0x0ABC]
    s.cfg.wf = true ∧ s.dueInterrupt = none ∧ s.pc.toNat + (Instr.call 0x0ABC).words ≤ s.cfg.flashWords ∧
    (∀ n w, (encodeWords (.call 0x0ABC))[n]? = some w → s.rawFlashWord (s.pc + BitVec.ofNat 16 n) = w) := by
  refine ⟨by decide, by decide, by decide, fun n w h => ?_⟩
  rcases n with _ | _ | n
  · cases h; decide
  · cases h; decide
  · cases h

theorem witness_FetchStopsOutsideFlashAndExcerpt :
    ((base.setPc 0x4000).dueInterrupt = none ∧ (base.setPc 0x4000).cfg.flashWords ≤ (base.setPc 0x4000).pc.toNat) ∧
    (base.dueInterrupt = none ∧ base.pc.toNat < base.cfg.flashWords ∧
      ∀ r ∈ rows, base.rawFlashWord base.pc &&& r.mask ≠ r.pattern) ∧
    (let s := load (base.setPc 0x3FFF) [0x9000]
     s.dueInterrupt = none ∧ s.pc.toNat < s.cfg.flashWords ∧ s.rawFlashWord s.pc &&& 0xFC0F = 0x9000 ∧
       s.cfg.flashWords ≤ s.secondPc.toNat) := by decide

theorem witness_AdditionsWriteTheSumAndItsFlags : base.cfg.pcBits ≤ 16 := by decide
theorem witness_SubtractionsWriteTheDifferenceAndItsFlags : base.cfg.pcBits ≤ 16 := by decide
theorem witness_IncAndDecCountByOne : base.cfg.pcBits ≤ 16 := by decide
theorem witness_LogicWritesTheBitwiseResult : base.cfg.pcBits ≤ 16 := by decide
theorem witness_RightShiftsHalve : base.cfg.pcBits ≤ 16 := by decide
theorem witness_SameRegisterForms : base.cfg.pcBits ≤ 16 := by decide
theorem witness_ComparesWriteFlagsOnly : base.cfg.pcBits ≤ 16 := by decide
theorem witness_BranchesTestOneFlag : base.cfg.pcBits ≤ 16 := by decide
theorem witness_MovesWriteOneRegister : base.cfg.pcBits ≤ 16 := by decide
theorem witness_NopSeiAndCli : base.cfg.pcBits ≤ 16 := by decide

theorem witness_AddThenAdcAddsSixteenBits : (24 : Reg) ≠ 25 ∧ (24 : Reg) ≠ 27 := by decide

theorem witness_SecondSpellingsMeanTheirBaseForm :
    (Instr.clr 3, Instr.eor 3 3) ∈ secondSpellings 3 4 5 ∧ (Instr.stZ 3, Instr.stdZ 0 3) ∈ secondSpellings 3 4 5 ∧
    (Instr.ser 4).core ≠ Instr.ser 4 := by decide

/-- The largest target. -/
theorem witness_JumpsSetThePcOnly :
    base.cfg.pcBits ≤ 16 ∧ (0x00FFFF : BitVec 22).toNat < 2 ^ base.cfg.pcBits := by decide

/-- The smallest refused target. -/
theorem witness_TargetOutsidePcBitsIsRefused : 2 ^ base.cfg.pcBits ≤ (0x010000 : BitVec 22).toNat := by decide

/-- The stack at the two ends of RAM. -/
theorem witness_CallsPushTheReturnAddress :
    base.cfg.pcBits ≤ 16 ∧ stackRoom base ∧ stackRoom (base.setSp 0x0061) ∧
      (0x00FFFF : BitVec 22).toNat < 2 ^ base.cfg.pcBits := by
  unfold stackRoom isRam; decide

theorem witness_CallThenRetComesBack :
    base.cfg.pcBits ≤ 16 ∧ stackRoom base ∧ stackRoom (base.setSp 0x0061) ∧
      (0x00FFFF : BitVec 22).toNat < 2 ^ base.cfg.pcBits := by
  unfold stackRoom isRam; decide

/-- At the top of RAM, both bytes written; and at its bottom, neither written. -/
theorem witness_ReturnsPopTheAddress :
    base.cfg.pcBits ≤ 16 ∧ stackHolds irqEntered ∧ (0x01 : Byte) = ramValue irqEntered (irqEntered.sp + 1) ∧
      (0x02 : Byte) = ramValue { irqEntered with draws := irqEntered.draws + ramDraws irqEntered (irqEntered.sp + 1) }
        (irqEntered.sp + 2) ∧ stackHolds (base.setSp 0x005F) := by
  refine ⟨by decide, ?_, rfl, rfl, ?_⟩ <;> (unfold stackHolds isRam; decide)

/-- Pointers at the ends of RAM. -/
def pointersInRam : State := ((base.setPair .x 0x0061).setPair .y 0x085F).setPair .z 0x0300

theorem witness_LoadFormsReadRam :
    pointersInRam.cfg.pcBits ≤ 16 ∧ 16 ≤ (16 : Reg).toNat ∧ isRam pointersInRam.cfg 0x0060 ∧
    isRam pointersInRam.cfg (pointersInRam.pair .x) ∧ isRam pointersInRam.cfg (pointersInRam.pair .y) ∧
    isRam pointersInRam.cfg (pointersInRam.pair .z) ∧
    isRam pointersInRam.cfg (pointersInRam.pair .y + (0 : BitVec 6).setWidth 16) ∧
    isRam pointersInRam.cfg (pointersInRam.pair .z + (63 : BitVec 6).setWidth 16) ∧
    isRam pointersInRam.cfg (pointersInRam.pair .x - 1) ∧ isRam pointersInRam.cfg (pointersInRam.pair .y - 1) ∧
    isRam pointersInRam.cfg (pointersInRam.pair .z - 1) ∧
    (25 : Reg) ≠ 26 ∧ (25 : Reg) ≠ 27 ∧ (30 : Reg) ≠ 28 ∧ (30 : Reg) ≠ 29 ∧ (29 : Reg) ≠ 30 ∧ (29 : Reg) ≠ 31 := by
  unfold isRam; decide

theorem witness_StoreFormsWriteRam :
    pointersInRam.cfg.pcBits ≤ 16 ∧ isRam pointersInRam.cfg 0x085F ∧
    isRam pointersInRam.cfg (pointersInRam.pair .x) ∧ isRam pointersInRam.cfg (pointersInRam.pair .y) ∧
    isRam pointersInRam.cfg (pointersInRam.pair .z) ∧
    isRam pointersInRam.cfg (pointersInRam.pair .y + (0 : BitVec 6).setWidth 16) ∧
    isRam pointersInRam.cfg (pointersInRam.pair .z + (63 : BitVec 6).setWidth 16) ∧
    isRam pointersInRam.cfg (pointersInRam.pair .x - 1) ∧ isRam pointersInRam.cfg (pointersInRam.pair .y - 1) ∧
    isRam pointersInRam.cfg (pointersInRam.pair .z - 1) ∧
    (28 : Reg) ≠ 26 ∧ (28 : Reg) ≠ 27 ∧ (27 : Reg) ≠ 28 ∧ (27 : Reg) ≠ 29 ∧ (0 : Reg) ≠ 30 ∧ (0 : Reg) ≠ 31 := by
  unfold isRam; decide

theorem witness_LoadFormsFollowTheirPseudocode :
    16 ≤ (16 : Reg).toNat ∧ (25 : Reg) ≠ 26 ∧ (25 : Reg) ≠ 27 ∧ (30 : Reg) ≠ 28 ∧ (30 : Reg) ≠ 29 ∧ (29 : Reg) ≠ 30 ∧
    (29 : Reg) ≠ 31 := by decide

theorem witness_StoreFormsFollowTheirPseudocode :
    (25 : Reg) ≠ 26 ∧ (25 : Reg) ≠ 27 ∧ (30 : Reg) ≠ 28 ∧ (30 : Reg) ≠ 29 ∧ (29 : Reg) ≠ 30 ∧ (29 : Reg) ≠ 31 := by decide

theorem witness_PointerHalfAsDataRegisterIsRefused :
    ((26 : Reg) = 26 ∨ (26 : Reg) = 27) ∧ ((29 : Reg) = 28 ∨ (29 : Reg) = 29) ∧ ((31 : Reg) = 30 ∨ (31 : Reg) = 31) := by
  decide

theorem witness_LdsBelowR16IsRefused : (15 : Reg).toNat < 16 := by decide

/-- Each clause at the ends of its range. -/
theorem witness_DataAccessFollowsTheMap :
    (0x0000 : Word).toNat < 0x20 ∧ (0x001F : Word).toNat < 0x20 ∧
    (0x20 ≤ (0x0020 : Word).toNat ∧ (0x0020 : Word).toNat < 0x60) ∧
    (0x20 ≤ (0x005F : Word).toNat ∧ (0x005F : Word).toNat < 0x60) ∧
    isRam base.cfg 0x0060 ∧ isRam base.cfg 0x085F ∧
    (0x60 ≤ (0x0860 : Word).toNat ∧ base.cfg.ramEnd < (0x0860 : Word).toNat) ∧
    (0x60 ≤ (0xFFFF : Word).toNat ∧ base.cfg.ramEnd < (0xFFFF : Word).toNat) ∧
    (let c := { base.cfg with sramStart := 0x0100 }
     0x60 ≤ (0x00FF : Word).toNat ∧ (0x00FF : Word).toNat < c.sramStart ∧ isRam c 0x0100) := by
  unfold isRam; decide

/-- With one port register that is not zero. -/
theorem witness_IoAccessFollowsTheTable :
    let s := base.setLatch 0x1B 0x5A
    s.cfg.wf = true ∧ Memory.wf (some latchBlank) s.latches ∧ ⟨'A', 0x19, 0x1A, 0x1B⟩ ∈ s.cfg.ports ∧
      (0x00 : IoAddr) ∉ s.cfg.ioAddresses ∧ (0x3C : IoAddr) ∉ s.cfg.ioAddresses := by decide

theorem witness_InReadsTheIoRegister :
    base.cfg.wf = true ∧ (0x3F : IoAddr) ∈ base.cfg.ioAddresses ∧ (0x10 : IoAddr) ∈ base.cfg.ioAddresses ∧
      (0x0F : IoAddr) ∉ base.cfg.ioAddresses ∧ ⟨'D', 0x10, 0x11, 0x12⟩ ∈ base.cfg.ports := by decide

theorem witness_OutWritesTheIoRegister :
    let s := base.setLatch 0x1B 0x5A
    s.cfg.wf = true ∧ Memory.wf (some latchBlank) s.latches ∧ ⟨'A', 0x19, 0x1A, 0x1B⟩ ∈ s.cfg.ports ∧
      (0x1C : IoAddr) ∉ s.cfg.ioAddresses := by decide

theorem witness_PushStoresThenDecrements :
    base.cfg.pcBits ≤ 16 ∧ isRam base.cfg base.sp ∧ isRam base.cfg (base.setSp 0x0060).sp := by
  unfold isRam; decide

theorem witness_PopIncrementsThenLoads :
    base.cfg.pcBits ≤ 16 ∧ isRam base.cfg ((base.setSp 0x085E).sp + 1) ∧ isRam base.cfg ((base.setSp 0x005F).sp + 1) := by
  unfold isRam; decide

theorem witness_PopAfterPushReturnsTheValue : isRam base.cfg base.sp := by unfold isRam; decide

/-- The stack byte at both ends of RAM, at both sides of 0x60, and above RAMEND. -/
theorem witness_StackInstructionsFollowTheirPseudocode :
    (0x00FFFF : BitVec 22).toNat < 2 ^ base.cfg.pcBits ∧
    isRam base.cfg base.sp ∧ isRam base.cfg (base.setSp 0x0060).sp ∧ (base.setSp 0x005F).sp.toNat < 0x60 ∧
    (0x60 ≤ (base.setSp 0x0860).sp.toNat ∧ base.cfg.ramEnd < (base.setSp 0x0860).sp.toNat) ∧
    isRam base.cfg ((base.setSp 0x085E).sp + 1) ∧ ((base.setSp 0x005E).sp + 1).toNat < 0x60 ∧
    (0x60 ≤ (base.sp + 1).toNat ∧ base.cfg.ramEnd < (base.sp + 1).toNat) ∧
    ¬stackRoom (base.setSp 0x0060) ∧ ¬stackHolds (base.setSp 0x085E) := by
  unfold stackRoom stackHolds isRam; decide

/-- The last word of program memory, both bytes. -/
theorem witness_LpmLoadsTheFlashByte :
    base.cfg.pcBits ≤ 16 ∧ ((base.setPair .z 0x7FFF).pair .z).toNat / 2 < base.cfg.flashWords ∧
    ((base.setPair .z 0x7FFE).pair .z).toNat / 2 < base.cfg.flashWords ∧ (29 : Reg) ≠ 30 ∧ (29 : Reg) ≠ 31 := by decide

theorem witness_LpmOutsideFlashFaults :
    base.cfg.flashWords ≤ ((base.setPair .z 0x8000).pair .z).toNat / 2 ∧ (29 : Reg) ≠ 30 ∧ (29 : Reg) ≠ 31 := by decide

theorem witness_InterruptIsTakenExactlyWhenEnabled :
    (flagI irqReady.sreg = true ∧ irqReady.irqHold = false ∧ irqReady.requesting ≠ []) ∧
    ¬(flagI base.sreg = true ∧ base.irqHold = false ∧ base.requesting ≠ []) := by decide

theorem witness_InterruptEntrySavesThePcOnly :
    irqReady.cfg.wf = true ∧ (⟨"T", 0x0004, 0⟩ : IrqSource) ∈ irqReady.cfg.irq ∧ stackRoom irqReady ∧
      ¬stackRoom (irqReady.setSp 0x0060) ∧ ¬stackRoom (irqReady.setSp 0x0860) := by
  unfold stackRoom isRam; decide

theorem witness_EntryThenRetiResumes :
    irqReady.cfg.wf = true ∧ irqReady.pc.toNat < 2 ^ irqReady.cfg.pcBits ∧
    irqReady.dueInterrupt = some ⟨"T", 0x0004, 0⟩ ∧ stackRoom irqReady ∧ irqReady.rawFlashWord 0x0004 = 0x9518 := by
  unfold stackRoom isRam; decide

theorem witness_EnablingInterruptsHoldsOne :
    ∃ t, step irqStart = .next t ∧ flagI irqStart.sreg = false ∧ flagI t.sreg = true := ⟨_, rfl, by decide, by decide⟩

theorem witness_HoldStandsOnlyWhileEnabled :
    ∃ t, (irqStart.irqHold = true → flagI irqStart.sreg = true) ∧ step irqStart = .next t ∧ t.irqHold = true :=
  ⟨_, by decide, rfl, by decide⟩

/-- A state with something in every memory. -/
theorem witness_StepKeepsTheInvariant :
    (irqEntered.setLatch 0x1B 0x5A).Inv ∧ ∃ t, step (irqEntered.setLatch 0x1B 0x5A) = .next t := by
  refine ⟨⟨by decide, ⟨by decide, by decide⟩, ⟨by decide, ?_⟩, by decide, by decide⟩, _, rfl⟩
  intro x hx
  rw [show (irqEntered.setLatch 0x1B 0x5A).latches = [(0x1B, 0x5A)] from rfl] at hx
  rw [List.mem_singleton.mp hx]
  exact ⟨0x1B, rfl, .inr rfl⟩

theorem witness_StepNeverWritesProgramMemory : ∃ t, step irqReady = .next t := ⟨_, rfl⟩

theorem witness_NonStoringInstructionsKeepTheRest :
    ∃ t, exec (.inc 3) base = .next t ∧ mayStore (.inc 3) = false ∧ popsStack (.inc 3) = false ∧
      0 ∉ flagsListed (.inc 3) ∧ 7 ∉ flagsListed (.inc 3) := ⟨_, rfl, by decide, by decide, by decide, by decide⟩

theorem witness_OtherInstructionsStepByTheirLength :
    base.cfg.pcBits ≤ 16 ∧ (∃ t, exec (.sts 0x0100 2) base = .next t ∧ setsPc (.sts 0x0100 2) = false) ∧
    ∃ t, exec (.breq 5) base = .next t ∧ branchCondition (.breq 5) base.sreg = some false :=
  ⟨by decide, ⟨_, rfl, by decide⟩, _, rfl, by decide⟩

theorem witness_RjmpMinusOneIsAFixedPoint :
    let s := load base [0xCFFF]
    s.cfg.wf = true ∧ s.dueInterrupt = none ∧ s.pc.toNat < s.cfg.flashWords ∧ s.rawFlashWord s.pc = 0xCFFF ∧
      s.finished = true ∧ endState 0 s = some s := by decide

end Sys2Proof.Machine
end

section
/-! Every step keeps the invariant (O55).  What a step can do is said once, by the relation `UpdatedFrom`: whatever
instruction runs, and whatever interrupt is entered, the next state comes from the state at the boundary by a chain of eight
updates, of which a RAM store stays inside the RAM and a latch store stands at a DDRx or a PORTx.  A property that holds of
every step then takes one case per update, not one per instruction. -/

namespace Sys2Proof.Machine

/-- The states reached from `s` by the updates an instruction or an interrupt entry may make; there is none for the
configuration, program memory or the environment's requests (R5, R66, R304). -/
inductive UpdatedFrom (s : State) : State → Prop where
  | refl : UpdatedFrom s s
  | setReg {t : State} (h : UpdatedFrom s t) (d : Reg) (v : Byte) : UpdatedFrom s (t.setReg d v)
  | setPc {t : State} (h : UpdatedFrom s t) (a : Word) : UpdatedFrom s (t.setPc a)
  | setSreg {t : State} (h : UpdatedFrom s t) (v : Byte) : UpdatedFrom s (t.setSreg v)
  | setSp {t : State} (h : UpdatedFrom s t) (a : Word) : UpdatedFrom s (t.setSp a)
  | setHold {t : State} (h : UpdatedFrom s t) (b : Bool) : UpdatedFrom s (t.setHold b)
  | drawn {t : State} (h : UpdatedFrom s t) : UpdatedFrom s t.drawn
  | setRam {t : State} (h : UpdatedFrom s t) {a : Nat} (v : Byte) (hlow : t.cfg.sramStart ≤ a)
      (hhigh : a ≤ t.cfg.ramEnd) : UpdatedFrom s (t.setRam a v)
  | setLatch {t : State} (h : UpdatedFrom s t) {a : IoAddr} (v : Byte)
      (hio : ioReg t.cfg a = some .ddr ∨ ioReg t.cfg a = some .port) : UpdatedFrom s (t.setLatch a v)

/-! ### The invariant under each update -/

theorem setPc_inv {s : State} (h : s.Inv) (a : Word) : (s.setPc a).Inv := by
  obtain ⟨hcfg, hram, hlatches, hflash, -⟩ := h
  exact ⟨hcfg, hram, hlatches, hflash, wrapPc_lt s a⟩

theorem setRam_inv {s : State} (h : s.Inv) {a : Nat} (v : Byte) (hlow : s.cfg.sramStart ≤ a)
    (hhigh : a ≤ s.cfg.ramEnd) : (s.setRam a v).Inv := by
  obtain ⟨hcfg, ⟨hcanon, hrange⟩, hlatches, hflash, hpc⟩ := h
  refine ⟨hcfg, ⟨write_wf hcanon a v, fun x hx => ?_⟩, hlatches, hflash, hpc⟩
  rw [setRam_ram] at hx
  rcases mem_write hx with rfl | hold
  · exact ⟨hlow, hhigh⟩
  · exact hrange x hold

theorem setLatch_inv {s : State} (h : s.Inv) {a : IoAddr} (v : Byte)
    (hio : ioReg s.cfg a = some .ddr ∨ ioReg s.cfg a = some .port) : (s.setLatch a v).Inv := by
  obtain ⟨hcfg, hram, ⟨hcanon, hports⟩, hflash, hpc⟩ := h
  refine ⟨hcfg, hram, ⟨write_wf hcanon a.toNat v, fun x hx => ?_⟩, hflash, hpc⟩
  rw [setLatch_latches] at hx
  rcases mem_write hx with rfl | hold
  · exact ⟨a, rfl, hio⟩
  · exact hports x hold

/-- The invariant asks nothing about the registers, SREG, SP, `irq_hold` and the count of draws, so the updates of those
keep it as it stands. -/
theorem UpdatedFrom.inv {s t : State} (h : UpdatedFrom s t) (hs : s.Inv) : t.Inv := by
  induction h with
  | refl => exact hs
  | setReg _ _ _ ih => exact ih
  | setPc _ a ih => exact setPc_inv ih a
  | setSreg _ _ ih => exact ih
  | setSp _ _ ih => exact ih
  | setHold _ _ ih => exact ih
  | drawn _ ih => exact ih
  | setRam _ v hlow hhigh ih => exact setRam_inv ih v hlow hhigh
  | setLatch _ v hio ih => exact setLatch_inv ih v hio

/-! ### The shared operations

Each continues a chain of updates: `t` is the state the operation starts in, `u` the one it answers. -/

section
variable {s t u : State}

theorem UpdatedFrom.setPair (h : UpdatedFrom s t) (p : Pointer) (v : Word) : UpdatedFrom s (t.setPair p v) :=
  (h.setReg _ _).setReg _ _

theorem UpdatedFrom.advance (h : UpdatedFrom s t) (n : Nat) : UpdatedFrom s (t.advance n) := h.setPc _

theorem UpdatedFrom.ioRead {a : IoAddr} {v : Byte} (h : UpdatedFrom s t) (e : ioRead a t = .next (v, u)) :
    UpdatedFrom s u := by
  rcases ioRead_next e with ⟨_, _, _, rfl⟩ | ⟨_, rfl⟩
  · exact h
  · exact h.drawn

theorem UpdatedFrom.memRead {a : Word} {v : Byte} (h : UpdatedFrom s t) (e : memRead a t = .next (v, u)) :
    UpdatedFrom s u := by
  rcases memRead_next e with rfl | rfl
  · exact h
  · exact h.drawn

theorem UpdatedFrom.ioWrite {a : IoAddr} {v : Byte} (h : UpdatedFrom s t) (e : ioWrite a v t = .next u) :
    UpdatedFrom s u := by
  rcases ioWrite_next e with ⟨_, rfl⟩ | ⟨_, rfl⟩ | ⟨_, rfl⟩ | ⟨hio, rfl⟩
  · exact (h.setSreg _).setHold _
  · exact h.setSp _
  · exact h.setSp _
  · exact h.setLatch _ hio

theorem UpdatedFrom.memWrite {a : Word} {v : Byte} (h : UpdatedFrom s t) (e : memWrite a v t = .next u) :
    UpdatedFrom s u := by
  rcases memWrite_next e with ⟨_, rfl⟩ | ⟨_, _, hio⟩ | ⟨_, hlow, hhigh, rfl⟩
  · exact h.setReg _ _
  · exact h.ioWrite hio
  · exact h.setRam _ hlow hhigh

theorem UpdatedFrom.push {v : Byte} (h : UpdatedFrom s t) (e : push v t = .next u) : UpdatedFrom s u := by
  obtain ⟨_, hlow, hhigh, rfl⟩ := push_next e
  exact (h.setRam v hlow hhigh).setSp _

theorem UpdatedFrom.pop {v : Byte} (h : UpdatedFrom s t) (e : pop t = .next (v, u)) : UpdatedFrom s u :=
  (h.setSp _).memRead (stackAccess_next e).2

theorem UpdatedFrom.pushAddr {ra : Word} (h : UpdatedFrom s t) (e : pushAddr ra t = .next u) : UpdatedFrom s u := by
  obtain ⟨_, hlo, hhi⟩ := pushAddr_next e
  exact (h.push hlo).push hhi

theorem UpdatedFrom.popAddr {ra : Word} (h : UpdatedFrom s t) (e : popAddr t = .next (ra, u)) : UpdatedFrom s u := by
  obtain ⟨_, _, _, hhi, hlo, _⟩ := popAddr_next e
  exact (h.pop hhi).pop hlo

theorem UpdatedFrom.modeBefore (h : UpdatedFrom s t) (m : Mode) (p : Pointer) (a : Word) :
    UpdatedFrom s (m.before p a t) := by
  cases m with
  | preDec => exact h.setPair p a
  | plain | postInc | disp => exact h

theorem UpdatedFrom.modeAfter (h : UpdatedFrom s t) (m : Mode) (p : Pointer) (a : Word) :
    UpdatedFrom s (m.after p a t) := by
  cases m with
  | postInc => exact h.setPair p (a + 1)
  | plain | preDec | disp => exact h

end

/-! ### The meanings that several instructions share -/

section
variable {s t : State}

theorem writeBack_updatedFrom {d : Reg} {v f : Byte} (h : writeBack d v f s = .next t) : UpdatedFrom s t := by
  obtain rfl := Host.Outcome.next.inj h
  exact ((UpdatedFrom.refl.setReg d v).setSreg f).advance 1

theorem compareWith_updatedFrom {a b : Byte} {c keepZ : Bool} (h : compareWith a b c keepZ s = .next t) :
    UpdatedFrom s t := by
  obtain rfl := Host.Outcome.next.inj h
  exact (UpdatedFrom.refl.setSreg _).advance 1

theorem branchIf_updatedFrom {taken : Bool} {k : BitVec 7} (h : branchIf taken k s = .next t) : UpdatedFrom s t := by
  obtain rfl := Host.Outcome.next.inj h
  cases taken with
  | true => exact UpdatedFrom.refl.setPc _
  | false => exact UpdatedFrom.refl.advance 1

theorem callTo_updatedFrom {len : Nat} {target : Word} (h : callTo len target s = .next t) : UpdatedFrom s t := by
  obtain ⟨u, hpush, hpc⟩ := andThen_eq_next.mp h
  obtain rfl := Host.Outcome.next.inj hpc
  exact (UpdatedFrom.refl.pushAddr hpush).setPc target

theorem returnPc_updatedFrom (h : returnPc s = .next t) : UpdatedFrom s t := by
  obtain ⟨⟨ra, u⟩, hpop, hpc⟩ := andThen_eq_next.mp h
  obtain rfl := Host.Outcome.next.inj hpc
  exact (UpdatedFrom.refl.popAddr hpop).setPc ra

theorem interruptReturn_updatedFrom (h : interruptReturn s = .next t) : UpdatedFrom s t := by
  obtain ⟨u, hret, hsreg⟩ := andThen_eq_next.mp h
  obtain rfl := Host.Outcome.next.inj hsreg
  exact ((returnPc_updatedFrom hret).setSreg _).setHold true

theorem interruptEntry_updatedFrom {src : IrqSource} (h : interruptEntry src s = .next t) : UpdatedFrom s t := by
  obtain ⟨u, hpush, hpc⟩ := andThen_eq_next.mp h
  obtain rfl := Host.Outcome.next.inj hpc
  exact ((UpdatedFrom.refl.pushAddr hpush).setSreg _).setPc src.vector

/-- A meaning behind an admission check answers only where the check lets it through. -/
theorem ite_refused_next {c : Prop} [Decidable c] {r : Refusal} {x : Result State}
    (h : (if c then .refused r else x) = .next t) : x = .next t := by
  split at h
  · cases h
  · exact h

theorem loadIndirect_updatedFrom {p : Pointer} {m : Mode} {d : Reg} (h : loadIndirect p m d s = .next t) :
    UpdatedFrom s t := by
  obtain ⟨⟨v, u⟩, hread, hend⟩ := andThen_eq_next.mp (ite_refused_next h)
  obtain rfl := Host.Outcome.next.inj hend
  exact ((((UpdatedFrom.refl.modeBefore m p _).memRead hread).setReg d v).modeAfter m p _).advance 1

theorem storeIndirect_updatedFrom {p : Pointer} {m : Mode} {r : Reg} (h : storeIndirect p m r s = .next t) :
    UpdatedFrom s t := by
  obtain ⟨u, hwrite, hend⟩ := andThen_eq_next.mp (ite_refused_next h)
  obtain rfl := Host.Outcome.next.inj hend
  exact (((UpdatedFrom.refl.modeBefore m p _).memWrite hwrite).modeAfter m p _).advance 1

theorem loadFlash_updatedFrom {m : Mode} {d : Reg} (h : loadFlash m d s = .next t) : UpdatedFrom s t := by
  obtain ⟨v, -, hend⟩ := andThen_eq_next.mp (ite_refused_next h)
  obtain rfl := Host.Outcome.next.inj hend
  exact ((UpdatedFrom.refl.setReg d v).modeAfter m .z _).advance 1

/-! ### Every instruction, and the step -/

/-- Whatever an instruction answers comes from the state it runs in by the updates of `UpdatedFrom`. -/
theorem exec_updatedFrom {i : Instr} (h : exec i s = .next t) : UpdatedFrom s t := by
  cases i with
  | add | adc | sub | subi | sbc | sbci | inc | dec | neg | and | andi | or | ori | eor | com | clr | ser | lsl | lsr
  | rol | ror | asr => exact writeBack_updatedFrom h
  | cp | cpc | cpi => exact compareWith_updatedFrom h
  | brbs | brbc | breq | brne | brcs | brcc | brsh | brlo => exact branchIf_updatedFrom h
  | ldX | ldXInc | ldXDec | ldY | ldYInc | ldYDec | lddY | ldZ | ldZInc | ldZDec | lddZ =>
    rw [exec] at h
    exact loadIndirect_updatedFrom h
  | stX | stXInc | stXDec | stY | stYInc | stYDec | stdY | stZ | stZInc | stZDec | stdZ =>
    rw [exec] at h
    exact storeIndirect_updatedFrom h
  | lpm | lpmInc =>
    rw [exec] at h
    exact loadFlash_updatedFrom h
  | rcall => exact callTo_updatedFrom h
  | call =>
    obtain ⟨_, -, hcall⟩ := andThen_eq_next.mp h
    exact callTo_updatedFrom hcall
  | ret => exact returnPc_updatedFrom h
  | reti => exact interruptReturn_updatedFrom h
  | rjmp =>
    obtain rfl := Host.Outcome.next.inj h
    exact UpdatedFrom.refl.setPc _
  | jmp =>
    obtain ⟨target, -, hpc⟩ := andThen_eq_next.mp h
    obtain rfl := Host.Outcome.next.inj hpc
    exact UpdatedFrom.refl.setPc target
  | tst | cli =>
    obtain rfl := Host.Outcome.next.inj h
    exact (UpdatedFrom.refl.setSreg _).advance 1
  | sei =>
    obtain rfl := Host.Outcome.next.inj h
    exact ((UpdatedFrom.refl.setSreg _).setHold true).advance 1
  | nop =>
    obtain rfl := Host.Outcome.next.inj h
    exact UpdatedFrom.refl.advance 1
  | mov | ldi =>
    obtain rfl := Host.Outcome.next.inj h
    exact (UpdatedFrom.refl.setReg _ _).advance 1
  | lds d k =>
    obtain ⟨⟨v, u⟩, hread, hend⟩ := andThen_eq_next.mp (ite_refused_next h)
    obtain rfl := Host.Outcome.next.inj hend
    exact ((UpdatedFrom.refl.memRead hread).setReg d v).advance 2
  | sts =>
    obtain ⟨u, hwrite, hend⟩ := andThen_eq_next.mp h
    obtain rfl := Host.Outcome.next.inj hend
    exact (UpdatedFrom.refl.memWrite hwrite).advance 2
  | ioIn d a =>
    obtain ⟨⟨v, u⟩, hread, hend⟩ := andThen_eq_next.mp h
    obtain rfl := Host.Outcome.next.inj hend
    exact ((UpdatedFrom.refl.ioRead hread).setReg d v).advance 1
  | ioOut =>
    obtain ⟨u, hwrite, hend⟩ := andThen_eq_next.mp h
    obtain rfl := Host.Outcome.next.inj hend
    exact (UpdatedFrom.refl.ioWrite hwrite).advance 1
  | push =>
    obtain ⟨u, hpush, hend⟩ := andThen_eq_next.mp h
    obtain rfl := Host.Outcome.next.inj hend
    exact (UpdatedFrom.refl.push hpush).advance 1
  | pop d =>
    obtain ⟨⟨v, u⟩, hpop, hend⟩ := andThen_eq_next.mp h
    obtain rfl := Host.Outcome.next.inj hend
    exact ((UpdatedFrom.refl.pop hpop).setReg d v).advance 1

/-- Whatever a step answers comes by these updates from a state that differs from `s` in the environment's requests and
`irq_hold` only: the boundary is passed (R304), and before an instruction `irq_hold` is cleared (R305). -/
theorem step_updatedFrom (h : step s = .next t) :
    UpdatedFrom s.passBoundary t ∨ UpdatedFrom s.enterInstr t := by
  rcases step_next h with ⟨src, -, hentry⟩ | ⟨-, i, -, hexec⟩
  · exact .inl (interruptEntry_updatedFrom hentry)
  · exact .inr (exec_updatedFrom hexec)

end

/-- Settles O55: the invariant survives the passing of the boundary, and then every update the step makes. -/
theorem stepKeepsTheInvariant : Obligations.StepKeepsTheInvariant := by
  intro s t hs hstep
  have hpass : s.passBoundary.Inv := hs
  have henter : s.enterInstr.Inv := hs
  rcases step_updatedFrom hstep with h | h
  · exact h.inv hpass
  · exact h.inv henter

end Sys2Proof.Machine
end

section
/-! What each flag function makes of each flag (O9, O10, O11).  The Boolean equations hold as the functions are written.
Their arithmetic readings go through two facts: a bit of a byte is a digit of its number, and the result of an addition or a
subtraction is known as a number; what is left is linear arithmetic in each case of the bits. -/

namespace Sys2Proof.Machine

/-! ### The bits of a byte, on numbers -/

theorem bit_eq_true {x : Byte} {n : Nat} (hn : n < 8) : x[n] = true ↔ x.toNat / 2 ^ n % 2 = 1 := by
  rw [← BitVec.getLsbD_eq_getElem, ← BitVec.testBit_toNat, Nat.testBit_eq_decide_div_mod_eq, decide_eq_true_eq]

theorem bit_eq_false {x : Byte} {n : Nat} (hn : n < 8) : x[n] = false ↔ ¬x.toNat / 2 ^ n % 2 = 1 := by
  rw [← bit_eq_true hn, Bool.not_eq_true]

theorem byte_toInt (x : Byte) : x.toInt = if x.toNat / 2 ^ 7 % 2 = 1 then (x.toNat : Int) - 256 else x.toNat := by
  have hlt := x.isLt
  rw [BitVec.toInt_eq_toNat_cond]
  split <;> split <;> omega

theorem carryByte_toNat (c : Bool) : (carryByte c).toNat = c.toNat := by cases c <;> rfl

theorem addResult_toNat (a b : Byte) (c : Bool) :
    (addResult a b c).toNat = (a.toNat + b.toNat + c.toNat) % 256 := by
  simp [addResult, carryByte_toNat, BitVec.toNat_add]

theorem subResult_toNat (a b : Byte) (c : Bool) :
    ((subResult a b c).toNat : Int) = ((a.toNat : Int) - b.toNat - c.toNat) % 256 := by
  have hb := b.isLt
  have hc := Bool.toNat_le c
  simp only [subResult, BitVec.toNat_sub, carryByte_toNat]
  omega

/-! ### Carry, borrow and signed overflow -/

section
variable (a b : Byte) (c : Bool)

/-- The equation of H in R40 is the carry out of bit 3. -/
theorem addH_iff_carry :
    ((a[3] && b[3]) || (b[3] && !(addResult a b c)[3]) || (!(addResult a b c)[3] && a[3])) = true ↔
      15 < a.toNat % 16 + b.toNat % 16 + c.toNat := by
  have hc := Bool.toNat_le c
  simp only [Bool.or_eq_true, Bool.and_eq_true, Bool.not_eq_true', bit_eq_true, bit_eq_false, addResult_toNat]
  omega

/-- The equation of C in R40 is the carry out of bit 7. -/
theorem addC_iff_carry :
    ((a[7] && b[7]) || (b[7] && !(addResult a b c)[7]) || (!(addResult a b c)[7] && a[7])) = true ↔
      255 < a.toNat + b.toNat + c.toNat := by
  have ha := a.isLt
  have hb := b.isLt
  have hc := Bool.toNat_le c
  simp only [Bool.or_eq_true, Bool.and_eq_true, Bool.not_eq_true', bit_eq_true, bit_eq_false, addResult_toNat]
  omega

/-- The equation of V in R40 is the signed sum out of range. -/
theorem addV_iff_overflow :
    ((a[7] && b[7] && !(addResult a b c)[7]) || (!a[7] && !b[7] && (addResult a b c)[7])) = true ↔
      a.toInt + b.toInt + c.toNat < -128 ∨ 127 < a.toInt + b.toInt + c.toNat := by
  have ha := a.isLt
  have hb := b.isLt
  have hc := Bool.toNat_le c
  simp only [Bool.or_eq_true, Bool.and_eq_true, Bool.not_eq_true', bit_eq_true, bit_eq_false, addResult_toNat, byte_toInt]
  split <;> split <;> omega

/-- The equation of H in R41 is the borrow from bit 4. -/
theorem subH_iff_borrow :
    ((!a[3] && b[3]) || (b[3] && (subResult a b c)[3]) || ((subResult a b c)[3] && !a[3])) = true ↔
      a.toNat % 16 < b.toNat % 16 + c.toNat := by
  have hR := subResult_toNat a b c
  have hc := Bool.toNat_le c
  simp only [Bool.or_eq_true, Bool.and_eq_true, Bool.not_eq_true', bit_eq_true, bit_eq_false]
  omega

/-- The equation of C in R41 is the unsigned borrow. -/
theorem subC_iff_borrow :
    ((!a[7] && b[7]) || (b[7] && (subResult a b c)[7]) || ((subResult a b c)[7] && !a[7])) = true ↔
      a.toNat < b.toNat + c.toNat := by
  have ha := a.isLt
  have hb := b.isLt
  have hc := Bool.toNat_le c
  have hR := subResult_toNat a b c
  simp only [Bool.or_eq_true, Bool.and_eq_true, Bool.not_eq_true', bit_eq_true, bit_eq_false]
  omega

/-- The equation of V in R41 is the signed difference out of range. -/
theorem subV_iff_overflow :
    ((a[7] && !b[7] && !(subResult a b c)[7]) || (!a[7] && b[7] && (subResult a b c)[7])) = true ↔
      a.toInt - b.toInt - c.toNat < -128 ∨ 127 < a.toInt - b.toInt - c.toNat := by
  have ha := a.isLt
  have hb := b.isLt
  have hc := Bool.toNat_le c
  have hR := subResult_toNat a b c
  simp only [Bool.or_eq_true, Bool.and_eq_true, Bool.not_eq_true', bit_eq_true, bit_eq_false, byte_toInt]
  split <;> split <;> omega

end

/-! ### What the users of the flag functions answer -/

section
variable {i : Instr} {s : State} {d : Reg} {v f : Byte}

theorem writeBack_givesRegAndFlags (h : exec i s = writeBack d v f s) : GivesRegAndFlags i s d v f :=
  ⟨_, h, by simp [State.reg], rfl⟩

theorem writeBack_completes (h : exec i s = writeBack d v f s) {P : State → Prop}
    (hP : ∀ t : State, t.reg d = v → t.sreg = f → P t) : Completes i s P := by
  obtain ⟨t, ht, hreg, hsreg⟩ := writeBack_givesRegAndFlags h
  exact ⟨t, ht, hP t hreg hsreg⟩

theorem compareWith_completes {a b : Byte} {c keepZ : Bool} (h : exec i s = compareWith a b c keepZ s) :
    Completes i s fun t => t.sreg = flagsSub s.sreg a b c keepZ :=
  ⟨_, h, rfl⟩

end

/-- Settles O9: every flag is read off `withHSVNZC`; H, C and V are carries and overflow by the three lemmas above. -/
theorem flagsAddFollowTheSum : Obligations.FlagsAddFollowTheSum := by
  refine ⟨fun x a b c => ?_, fun s d r => ?_⟩
  · intro f R
    have hH : flagH f = ((a[3] && b[3]) || (b[3] && !R[3]) || (!R[3] && a[3])) := flagH_packSreg ..
    have hC : flagC f = ((a[7] && b[7]) || (b[7] && !R[7]) || (!R[7] && a[7])) := flagC_packSreg ..
    have hV : flagV f = ((a[7] && b[7] && !R[7]) || (!a[7] && !b[7] && R[7])) := flagV_packSreg ..
    have hN : flagN f = R[7] := flagN_packSreg ..
    have hZ : flagZ f = (R == 0) := flagZ_packSreg ..
    have hS : flagS f = (flagN f ^^ flagV f) := by rw [hN, hV]; exact flagS_packSreg ..
    exact ⟨addResult_toNat a b c, hH, hH ▸ addH_iff_carry a b c, hC, hC ▸ addC_iff_carry a b c, hV,
      hV ▸ addV_iff_overflow a b c, hN, by rw [hZ, beq_iff_eq], hS, flagT_packSreg .., flagI_packSreg ..⟩
  · exact ⟨writeBack_givesRegAndFlags rfl, writeBack_givesRegAndFlags rfl, writeBack_givesRegAndFlags rfl,
      writeBack_givesRegAndFlags rfl⟩

/-- Settles O10: as O9, with borrows for carries, and Z the zero result that `keepZ` joins with the old Z. -/
theorem flagsSubFollowTheDifference : Obligations.FlagsSubFollowTheDifference := by
  refine ⟨fun x a b c keepZ => ?_, fun s d r h k => ?_⟩
  · intro f R
    have hH : flagH f = ((!a[3] && b[3]) || (b[3] && R[3]) || (R[3] && !a[3])) := flagH_packSreg ..
    have hC : flagC f = ((!a[7] && b[7]) || (b[7] && R[7]) || (R[7] && !a[7])) := flagC_packSreg ..
    have hV : flagV f = ((a[7] && !b[7] && !R[7]) || (!a[7] && b[7] && R[7])) := flagV_packSreg ..
    have hN : flagN f = R[7] := flagN_packSreg ..
    have hZ : flagZ f = (R == 0 && (!keepZ || flagZ x)) := flagZ_packSreg ..
    have hS : flagS f = (flagN f ^^ flagV f) := by rw [hN, hV]; exact flagS_packSreg ..
    have hZ' : flagZ f = true ↔ R = 0 ∧ (keepZ = true → flagZ x = true) := by
      rw [hZ, Bool.and_eq_true, beq_iff_eq]
      cases keepZ <;> simp
    exact ⟨subResult_toNat a b c, hH, hH ▸ subH_iff_borrow a b c, hC, hC ▸ subC_iff_borrow a b c, hV,
      hV ▸ subV_iff_overflow a b c, hN, hZ', hS, flagT_packSreg .., flagI_packSreg ..⟩
  · exact ⟨writeBack_givesRegAndFlags rfl, writeBack_givesRegAndFlags rfl, writeBack_givesRegAndFlags rfl,
      writeBack_givesRegAndFlags rfl, writeBack_givesRegAndFlags rfl, compareWith_completes rfl,
      compareWith_completes rfl, compareWith_completes rfl⟩

/-! ### The flags of the logic, the right shifts and the counts -/

/-- Setting C sets bit 0 (R155). -/
theorem withC_true (x : Byte) : withC x true = x ||| 0x01 := by
  revert x; decide

/-- The flags R156 spells out for CLR are those of a zero result. -/
theorem exec_clr_eq_logicInto (d : Reg) (s : State) : exec (.clr d) s = logicInto d 0x00 s := rfl

theorem add_one_eq_0x80_iff (x : Byte) : x + 1 = 0x80 ↔ x = 0x7F := by bv_omega

theorem sub_one_eq_0x7F_iff (x : Byte) : x - 1 = 0x7F ↔ x = 0x80 := by bv_omega

theorem flagsLogic_flags (x R : Byte) : let f := flagsLogic x R
    flagV f = false ∧ flagN f = R[7] ∧ (flagZ f = true ↔ R = 0) ∧ flagS f = (flagN f ^^ flagV f) ∧
      flagS f = flagN f ∧ flagC f = flagC x ∧ flagH f = flagH x ∧ upperFlagsKept x f := by
  simp [flagsLogic, withSVNZ, upperFlagsKept, BitVec.getLsbD_eq_getElem]

theorem flagsShr_flags (x a R : Byte) : let f := flagsShr x a R
    flagC f = a[0] ∧ flagN f = R[7] ∧ (flagZ f = true ↔ R = 0) ∧ flagV f = (flagN f ^^ flagC f) ∧
      flagS f = (flagN f ^^ flagV f) ∧ flagS f = flagC f ∧ flagH f = flagH x ∧ upperFlagsKept x f := by
  simp [flagsShr, withSVNZC, upperFlagsKept, BitVec.getLsbD_eq_getElem]

theorem flagsIncDec_flags (x R : Byte) (vcond : Bool) : let f := flagsIncDec x R vcond
    flagV f = vcond ∧ flagN f = R[7] ∧ (flagZ f = true ↔ R = 0) ∧ flagS f = (flagN f ^^ flagV f) ∧
      flagC f = flagC x ∧ flagH f = flagH x ∧ upperFlagsKept x f := by
  simp [flagsIncDec, withSVNZ, upperFlagsKept, BitVec.getLsbD_eq_getElem]

/-- A bitwise operation ends with the logic flags of its result (R42). -/
theorem logicInto_completes {i : Instr} {s : State} {d : Reg} {v : Byte} (h : exec i s = logicInto d v s) :
    Completes i s fun t => t.sreg = flagsLogic s.sreg (t.reg d) :=
  writeBack_completes h fun _ hreg hsreg => by rw [hsreg, hreg]

/-- A right shift ends with the shift flags of its operand and its result (R43). -/
theorem shiftInto_completes {i : Instr} {s : State} {d : Reg} {v : Byte} (h : exec i s = shiftInto d v s) :
    Completes i s fun t => t.sreg = flagsShr s.sreg (s.reg d) (t.reg d) :=
  writeBack_completes h fun _ hreg hsreg => by rw [hsreg, hreg]

/-- Settles O11: the flags by the three lemmas of their functions, the users by what their shared meanings answer. -/
theorem flagsLogicShiftAndCount : Obligations.FlagsLogicShiftAndCount := by
  refine ⟨fun x a R vcond => ⟨flagsLogic_flags x R, flagsShr_flags x a R, flagsIncDec_flags x R vcond⟩,
    fun s d r h k => ⟨?logic, ?com, ?shifts, ?inc, ?dec⟩⟩
  case logic =>
    simp only [List.forall_mem_cons, List.not_mem_nil, false_imp_iff, implies_true, and_true]
    exact ⟨logicInto_completes rfl, logicInto_completes rfl, logicInto_completes rfl, logicInto_completes rfl,
      logicInto_completes rfl, logicInto_completes (exec_clr_eq_logicInto d s), ⟨_, rfl, rfl⟩⟩
  case com =>
    exact writeBack_completes rfl fun t hreg hsreg => by rw [hsreg, hreg, withC_true]
  case shifts =>
    simp only [List.forall_mem_cons, List.not_mem_nil, false_imp_iff, implies_true, and_true]
    exact ⟨shiftInto_completes rfl, shiftInto_completes rfl, shiftInto_completes rfl⟩
  case inc =>
    exact writeBack_completes rfl fun t hreg hsreg => by
      rw [hsreg, hreg]
      exact ⟨rfl, add_one_eq_0x80_iff _⟩
  case dec =>
    exact writeBack_completes rfl fun t hreg hsreg => by
      rw [hsreg, hreg]
      exact ⟨rfl, sub_one_eq_0x7F_iff _⟩

end Sys2Proof.Machine
end

section
/-! Small facts of the state: the pointer pairs (O31), the refused LDS (O37), the state after reset (O54, O60), and the
fetch that stops (O8). -/

namespace Sys2Proof.Machine

/-! ### Pointer pairs -/

/-- A pair's number, the higher-numbered register more significant (R23). -/
theorem pair_toNat (s : State) (p : Pointer) : (s.pair p).toNat = (s.reg p.high).toNat * 256 + (s.reg p.low).toNat := by
  have hlow := (s.reg p.low).isLt
  rw [State.pair, BitVec.toNat_append, ← Nat.shiftLeft_add_eq_or_of_lt hlow, Nat.shiftLeft_eq]

theorem setPair_regsKept (s : State) (p : Pointer) (v : Word) : regsKept s (s.setPair p v) [p.low, p.high] := by
  intro x hx
  simp only [List.mem_cons, List.not_mem_nil, or_false, not_or] at hx
  obtain ⟨hlow, hhigh⟩ := hx
  rw [setPair_reg, if_neg hhigh, if_neg hlow]

/-- Settles O31: the number of a pair at each of the three pointers, and what a write of a pair reads back as and keeps. -/
theorem pointerPairIsTwoRegisters : Obligations.PointerPairIsTwoRegisters := fun s v =>
  ⟨pair_toNat s .x, pair_toNat s .y, pair_toNat s .z,
    fun p => ⟨setPair_pair_same s p v, setPair_regsKept s p v⟩⟩

/-- Settles O37: the admission check of R222 comes first in the meaning of LDS. -/
theorem ldsBelowR16IsRefused : Obligations.LdsBelowR16IsRefused := fun _ _ _ hlow => if_pos hlow

/-! ### Reset -/

/-- Settles O54: the configuration is legal by evaluation, and the three memories are empty. -/
theorem resetMeetsTheInvariant : Obligations.ResetMeetsTheInvariant := by
  obtain ⟨hram, hlatches, hflash⟩ := reset_memories_wf
  have hcfg : State.reset.cfg.wf = true := by decide
  have hpc : State.reset.pc.toNat < 2 ^ State.reset.cfg.pcBits := by decide
  exact ⟨hcfg, ⟨hram, by simp [State.reset]⟩, ⟨hlatches, by simp [State.reset]⟩, hflash, hpc⟩

/-- Settles O60: the fields as `State.reset` writes them; a read of an empty memory answers what an unlisted byte reads as,
and with I = 0 no interrupt is due. -/
theorem resetLeavesTheStatedValues : Obligations.ResetLeavesTheStatedValues := by
  have hlatch : ∀ a, State.reset.latch a = 0 := fun _ => rfl
  have hram : ∀ a, State.reset.ramByte a = none := fun _ => rfl
  exact ⟨rfl, rfl, by decide, rfl, hlatch, hram, rfl, by decide⟩

/-! ### The fetch -/

/-- Where no interrupt is due, a fetch that faults makes the step fault (R305). -/
theorem step_fault_of_fetch {s : State} {r : Fault} (hdue : s.dueInterrupt = none) (h : fetch s = .fault r) :
    step s = .fault r := by
  rw [step, hdue, h]
  rfl

theorem step_refused_of_fetch {s : State} {r : Refusal} (hdue : s.dueInterrupt = none) (h : fetch s = .refused r) :
    step s = .refused r := by
  rw [step, hdue, h]
  rfl

theorem wordOfBytes_extractLsb' (w : Word) : wordOfBytes (w.extractLsb' 0 8) (w.extractLsb' 8 8) = w := by
  rw [wordOfBytes, BitVec.extractLsb'_append_extractLsb'_eq_extractLsb' (by rfl)]
  exact BitVec.extractLsb'_eq_self

theorem rowOf_eq_none {w : Word} (h : ∀ r ∈ rows, w &&& r.mask ≠ r.pattern) : rowOf w = none :=
  List.find?_eq_none.mpr fun r hr => by simpa [Row.hits] using h r hr

/-- Where a mask leaves out one more bit than another, a word under it has that bit clear or set. -/
theorem and_or_bit {w m p b : Word} {n : Nat} (hb : b = BitVec.twoPow 16 n) (h : w &&& m = p) :
    w &&& (m ||| b) = p ∨ w &&& (m ||| b) = p ||| b := by
  rw [BitVec.and_or_distrib_left, h, hb, BitVec.and_twoPow]
  split <;> simp

/-- The length test of R114 passes only words that match the row of JMP, CALL, LDS or STS. -/
theorem exists_row_of_twoWord {w : Word} (h : w &&& 0xFE0C = 0x940C ∨ w &&& 0xFC0F = 0x9000) :
    ∃ r ∈ rows, w &&& r.mask = r.pattern := by
  rcases h with h | h
  · rcases and_or_bit (b := 0x0002) (n := 1) rfl h with hjmp | hcall
    · exact ⟨⟨0x940C, 0xFE0E, fun w w2 => .jmp (fieldAbs22 w w2)⟩, by simp [rows, rowsControl], hjmp⟩
    · exact ⟨⟨0x940E, 0xFE0E, fun w w2 => .call (fieldAbs22 w w2)⟩, by simp [rows, rowsControl], hcall⟩
  · rcases and_or_bit (b := 0x0200) (n := 9) rfl h with hlds | hsts
    · exact ⟨⟨0x9000, 0xFE0F, fun w w2 => .lds (fieldD w) w2⟩, by simp [rows, rowsTransfer], hlds⟩
    · exact ⟨⟨0x9200, 0xFE0F, fun w w2 => .sts w2 (fieldD w)⟩, by simp [rows, rowsTransfer], hsts⟩

theorem rowOf_isSome {w : Word} (h : ∃ r ∈ rows, w &&& r.mask = r.pattern) : ∃ r, rowOf w = some r := by
  obtain ⟨r, hr, hmatch⟩ := h
  exact Option.isSome_iff_exists.mp (List.find?_isSome.mpr ⟨r, hr, by simpa [Row.hits] using hmatch⟩)

theorem isTwoWord_iff (w : Word) : isTwoWord w = true ↔ w &&& 0xFE0C = 0x940C ∨ w &&& 0xFC0F = 0x9000 := by
  simp [isTwoWord]

/-- The decoder names a word that no row matches, whatever follows it (R118). -/
theorem decode_notInExcerpt {w : Word} (h : rowOf w = none) (rest : List Byte) :
    decode (bytesOfWord w ++ rest) = .error (.notInExcerpt w) := by
  simp only [bytesOfWord, List.cons_append, List.nil_append, decode, wordOfBytes_extractLsb', h]

/-- The decoder wants two words where the length test says so (R114). -/
theorem decode_truncated {w : Word} {r : Row} (h : rowOf w = some r) (htwo : isTwoWord w = true) :
    decode (bytesOfWord w) = .error .truncated := by
  simp only [bytesOfWord, decode, wordOfBytes_extractLsb', h, htwo, if_true]

theorem inFlash_eq_true {s : State} {w : Word} (h : w.toNat < s.cfg.flashWords) : s.inFlash w = true :=
  decide_eq_true h

theorem inFlash_eq_false {s : State} {w : Word} (h : s.cfg.flashWords ≤ w.toNat) : s.inFlash w = false :=
  decide_eq_false (Nat.not_lt_of_le h)

theorem fetch_outsideFlash {s : State} (h : s.cfg.flashWords ≤ s.pc.toNat) :
    fetch s = .fault (.fetchOutsideFlash s.pc) := by
  simp [fetch, inFlash_eq_false h]

theorem fetch_notInExcerpt {s : State} (h : s.pc.toNat < s.cfg.flashWords)
    (hrow : rowOf (s.rawFlashWord s.pc) = none) : fetch s = .refused (.wordNotInExcerpt (s.rawFlashWord s.pc)) := by
  simp only [fetch, inFlash_eq_true h, if_true, fetchBytes, decode_notInExcerpt hrow]

theorem fetch_secondWordOutsideFlash {s : State} {r : Row} (h : s.pc.toNat < s.cfg.flashWords)
    (hrow : rowOf (s.rawFlashWord s.pc) = some r) (htwo : isTwoWord (s.rawFlashWord s.pc) = true)
    (hsecond : s.cfg.flashWords ≤ s.secondPc.toNat) : fetch s = .fault (.fetchOutsideFlash s.secondPc) := by
  simp only [fetch, inFlash_eq_true h, if_true, fetchBytes, inFlash_eq_false hsecond, Bool.false_eq_true, if_false,
    List.append_nil, decode_truncated hrow htwo]

/-- Settles O8: one lemma on the fetch per clause. -/
theorem fetchStopsOutsideFlashAndExcerpt : Obligations.FetchStopsOutsideFlashAndExcerpt := by
  intro s hdue
  refine ⟨fun hpc => ?outside, fun hpc hnone => ?unmatched, fun hpc htwo hsecond => ?secondWord⟩
  case outside => exact step_fault_of_fetch hdue (fetch_outsideFlash hpc)
  case unmatched => exact step_refused_of_fetch hdue (fetch_notInExcerpt hpc (rowOf_eq_none hnone))
  case secondWord =>
    obtain ⟨r, hrow⟩ := rowOf_isSome (exists_row_of_twoWord htwo)
    exact step_fault_of_fetch hdue
      (fetch_secondWordOutsideFlash hpc hrow ((isTwoWord_iff _).mpr htwo) hsecond)

end Sys2Proof.Machine
end

section
/-! What each instruction does to the state, in eight shapes (O52, O53, O57, O58).  `ExecShape` says once, for every
instruction, which fields its next state may differ in from the state it runs in; each of the four statements is then one
case per shape. -/

namespace Sys2Proof.Machine

/-! ### Flags outside a list -/

/-- Every SREG bit that `listed` does not list is as before (R29). -/
def flagsKeptBut (listed : List Nat) (x y : Byte) : Prop := ∀ b < 8, b ∉ listed → y.getLsbD b = x.getLsbD b

theorem flagsKeptBut_iff {listed : List Nat} {x y : Byte} : flagsKeptBut listed x y ↔
    (0 ∉ listed → flagC y = flagC x) ∧ (1 ∉ listed → flagZ y = flagZ x) ∧ (2 ∉ listed → flagN y = flagN x) ∧
    (3 ∉ listed → flagV y = flagV x) ∧ (4 ∉ listed → flagS y = flagS x) ∧ (5 ∉ listed → flagH y = flagH x) ∧
    (6 ∉ listed → flagT y = flagT x) ∧ (7 ∉ listed → flagI y = flagI x) := by
  constructor
  · intro h
    exact ⟨h 0 (by decide), h 1 (by decide), h 2 (by decide), h 3 (by decide), h 4 (by decide), h 5 (by decide),
      h 6 (by decide), h 7 (by decide)⟩
  · rintro ⟨hC, hZ, hN, hV, hS, hH, hT, hI⟩ b hb
    match b, hb with
    | 0, _ => exact hC
    | 1, _ => exact hZ
    | 2, _ => exact hN
    | 3, _ => exact hV
    | 4, _ => exact hS
    | 5, _ => exact hH
    | 6, _ => exact hT
    | 7, _ => exact hI

theorem flagsKeptBut.flagI {listed : List Nat} {x y : Byte} (h : flagsKeptBut listed x y) (hI : 7 ∉ listed) :
    flagI y = flagI x := h 7 (by decide) hI

theorem flagsKeptBut_refl {listed : List Nat} {x : Byte} : flagsKeptBut listed x x := fun _ _ _ => rfl

theorem withHSVNZC_keeps {x : Byte} {h s v n z c : Bool} :
    flagsKeptBut [0, 1, 2, 3, 4, 5] x (withHSVNZC x h s v n z c) := by
  simp [flagsKeptBut_iff, withHSVNZC]

theorem withSVNZC_keeps {x : Byte} {s v n z c : Bool} : flagsKeptBut [0, 1, 2, 3, 4] x (withSVNZC x s v n z c) := by
  simp [flagsKeptBut_iff, withSVNZC]

theorem withSVNZ_keeps {x : Byte} {s v n z : Bool} : flagsKeptBut [1, 2, 3, 4] x (withSVNZ x s v n z) := by
  simp [flagsKeptBut_iff, withSVNZ]

theorem withC_withSVNZ_keeps {x : Byte} {s v n z c : Bool} :
    flagsKeptBut [0, 1, 2, 3, 4] x (withC (withSVNZ x s v n z) c) := by
  simp [flagsKeptBut_iff, withC, withSVNZ]

theorem withI_keeps {x : Byte} {i : Bool} : flagsKeptBut [7] x (withI x i) := by
  simp [flagsKeptBut_iff, withI]

@[simp] theorem flagI_withI (x : Byte) (i : Bool) : flagI (withI x i) = i := flagI_packSreg ..

/-! ### Which fields the shared operations may change -/

section
variable {s t : State}

theorem modeBefore_regs (m : Mode) (p : Pointer) (a : Word) (s : State) : ∃ r, m.before p a s = { s with regs := r } := by
  cases m with
  | preDec => exact ⟨_, rfl⟩
  | plain | postInc | disp => exact ⟨s.regs, rfl⟩

theorem modeAfter_regs (m : Mode) (p : Pointer) (a : Word) (s : State) : ∃ r, m.after p a s = { s with regs := r } := by
  cases m with
  | postInc => exact ⟨_, rfl⟩
  | plain | preDec | disp => exact ⟨s.regs, rfl⟩

theorem ioRead_draws {a : IoAddr} {v : Byte} (h : ioRead a s = .next (v, t)) : ∃ n, t = { s with draws := n } := by
  rcases ioRead_next h with ⟨_, _, _, rfl⟩ | ⟨_, rfl⟩
  · exact ⟨t.draws, rfl⟩
  · exact ⟨_, rfl⟩

theorem memRead_draws {a : Word} {v : Byte} (h : memRead a s = .next (v, t)) : ∃ n, t = { s with draws := n } := by
  rcases memRead_next h with rfl | rfl
  · exact ⟨t.draws, rfl⟩
  · exact ⟨_, rfl⟩

theorem push_ram_sp {v : Byte} (h : push v s = .next t) : ∃ m p, t = { s with ram := m, sp := p } := by
  obtain ⟨-, -, -, rfl⟩ := push_next h
  exact ⟨_, _, rfl⟩

theorem pushAddr_ram_sp {ra : Word} (h : pushAddr ra s = .next t) : ∃ m p, t = { s with ram := m, sp := p } := by
  obtain ⟨u, hlo, hhi⟩ := pushAddr_next h
  obtain ⟨_, _, rfl⟩ := push_ram_sp hlo
  obtain ⟨m, p, rfl⟩ := push_ram_sp hhi
  exact ⟨m, p, rfl⟩

theorem pop_sp_draws {v : Byte} (h : pop s = .next (v, t)) : ∃ p n, t = { s with sp := p, draws := n } := by
  obtain ⟨n, rfl⟩ := memRead_draws (stackAccess_next h).2
  exact ⟨_, n, rfl⟩

theorem returnPc_sp_draws (h : returnPc s = .next t) :
    ∃ p n a, t = ({ s with sp := p, draws := n } : State).setPc a := by
  obtain ⟨⟨ra, u⟩, hpop, hpc⟩ := andThen_eq_next.mp h
  obtain rfl := Host.Outcome.next.inj hpc
  obtain ⟨_, _, _, hhi, hlo, -⟩ := popAddr_next hpop
  obtain ⟨_, _, rfl⟩ := pop_sp_draws hhi
  obtain ⟨p, n, rfl⟩ := pop_sp_draws hlo
  exact ⟨p, n, ra, rfl⟩

/-! ### What a store may do

A store can reach every field through the I/O space but the configuration and the program counter. -/

/-- `t` is `s` after a store: the program counter still stands, and `irq_hold` follows SREG as R36 says of a write. -/
structure StoredFrom (s t : State) : Prop where
  cfg : t.cfg = s.cfg
  pc : t.pc = s.pc
  hold : t.irqHold = (s.irqHold || (!flagI s.sreg && flagI t.sreg))

/-- A store that leaves SREG and `irq_hold` alone. -/
theorem StoredFrom.of_kept (hcfg : t.cfg = s.cfg) (hpc : t.pc = s.pc) (hsreg : t.sreg = s.sreg)
    (hhold : t.irqHold = s.irqHold) : StoredFrom s t :=
  ⟨hcfg, hpc, by rw [hsreg, hhold, Bool.not_and_self, Bool.or_false]⟩

theorem ioWrite_storedFrom {a : IoAddr} {v : Byte} (h : ioWrite a v s = .next t) : StoredFrom s t := by
  rcases ioWrite_next h with ⟨-, rfl⟩ | ⟨-, rfl⟩ | ⟨-, rfl⟩ | ⟨-, rfl⟩
  · exact ⟨rfl, rfl, rfl⟩
  · exact .of_kept rfl rfl rfl rfl
  · exact .of_kept rfl rfl rfl rfl
  · exact .of_kept rfl rfl rfl rfl

theorem memWrite_storedFrom {a : Word} {v : Byte} (h : memWrite a v s = .next t) : StoredFrom s t := by
  rcases memWrite_next h with ⟨-, rfl⟩ | ⟨-, -, hio⟩ | ⟨-, -, -, rfl⟩
  · exact .of_kept rfl rfl rfl rfl
  · exact ioWrite_storedFrom hio
  · exact .of_kept rfl rfl rfl rfl

/-! ### The shapes -/

/-- What an instruction that completes can make of the state it runs in. -/
inductive ExecShape (s : State) : Instr → State → Prop where
  /-- Registers, the flags its row lists, and draws: arithmetic, logic, shifts, compares, loads, CLI. -/
  | computes {i : Instr} (r : Vector Byte 32) (f : Byte) (n : Nat) (hflags : flagsKeptBut (flagsListed i) s.sreg f)
      (hI : flagI f = true → flagI s.sreg = true) :
      ExecShape s i (({ s with regs := r, sreg := f, draws := n } : State).advance i.words)
  | enables : ExecShape s .sei (((s.setSreg (withI s.sreg true)).setHold true).advance 1)
  | pops {i : Instr} (hpops : popsStack i = true) (r : Vector Byte 32) (p : Word) (n : Nat) :
      ExecShape s i (({ s with regs := r, sp := p, draws := n } : State).advance i.words)
  | stores {i : Instr} (hstore : mayStore i = true) {u : State} (hu : StoredFrom s u) :
      ExecShape s i (u.advance i.words)
  | jumps {i : Instr} (hpc : setsPc i = true) (a : Word) : ExecShape s i (s.setPc a)
  | calls {i : Instr} (hstore : mayStore i = true) (hpc : setsPc i = true) (m : Memory) (p a : Word) :
      ExecShape s i (({ s with ram := m, sp := p } : State).setPc a)
  | returns (p : Word) (n : Nat) (a : Word) : ExecShape s .ret (({ s with sp := p, draws := n } : State).setPc a)
  | returnsEnabling (p : Word) (n : Nat) (a : Word) :
      ExecShape s .reti
        (((({ s with sp := p, draws := n } : State).setPc a).setSreg (withI s.sreg true)).setHold true)

variable {i : Instr}

/-- A register instruction writes flags its row lists, and not I (R140). -/
theorem writeBack_shape {d : Reg} {v f : Byte} (hflags : flagsKeptBut (flagsListed i) s.sreg f)
    (hI : 7 ∉ flagsListed i) (hwords : i.words = 1) (h : writeBack d v f s = .next t) : ExecShape s i t := by
  obtain rfl := Host.Outcome.next.inj h
  exact hwords ▸ .computes (s.setReg d v).regs f s.draws hflags (hflags.flagI hI ▸ id)

/-- An instruction that writes SREG only: its row lists what it writes, and I does not go up. -/
theorem setSreg_shape {f : Byte} (hflags : flagsKeptBut (flagsListed i) s.sreg f)
    (hI : flagI f = true → flagI s.sreg = true) (hwords : i.words = 1)
    (h : Host.Outcome.next ((s.setSreg f).advance 1) = (.next t : Result State)) : ExecShape s i t := by
  obtain rfl := Host.Outcome.next.inj h
  exact hwords ▸ .computes s.regs f s.draws hflags hI

theorem compareWith_shape {a b : Byte} {c keepZ : Bool} (hlisted : flagsListed i = [0, 1, 2, 3, 4, 5])
    (hwords : i.words = 1) (h : compareWith a b c keepZ s = .next t) : ExecShape s i t := by
  have hkept : flagsKeptBut (flagsListed i) s.sreg (flagsSub s.sreg a b c keepZ) := hlisted ▸ withHSVNZC_keeps
  exact setSreg_shape hkept (hkept.flagI (by simp [hlisted]) ▸ id) hwords h

/-- A load writes registers, and may draw. -/
theorem load_shape (r : Vector Byte 32) (n : Nat) :
    ExecShape s i (({ s with regs := r, draws := n } : State).advance i.words) :=
  .computes r s.sreg n flagsKeptBut_refl id

theorem loadIndirect_shape {p : Pointer} {m : Mode} {d : Reg} (hwords : i.words = 1)
    (h : loadIndirect p m d s = .next t) : ExecShape s i t := by
  obtain ⟨⟨v, u⟩, hread, hend⟩ := andThen_eq_next.mp (ite_refused_next h)
  obtain rfl := Host.Outcome.next.inj hend
  obtain ⟨_, hbefore⟩ := modeBefore_regs m p (m.address (s.pair p)) s
  rw [hbefore] at hread
  obtain ⟨n, rfl⟩ := memRead_draws hread
  obtain ⟨r, hafter⟩ := modeAfter_regs m p (m.address (s.pair p)) (State.setReg _ d v)
  rw [hafter]
  exact hwords ▸ load_shape r n

theorem loadFlash_shape {m : Mode} {d : Reg} (hwords : i.words = 1) (h : loadFlash m d s = .next t) :
    ExecShape s i t := by
  obtain ⟨v, -, hend⟩ := andThen_eq_next.mp (ite_refused_next h)
  obtain rfl := Host.Outcome.next.inj hend
  obtain ⟨r, hafter⟩ := modeAfter_regs m .z (s.pair .z) (s.setReg d v)
  rw [hafter]
  exact hwords ▸ load_shape r s.draws

theorem storeIndirect_shape {p : Pointer} {m : Mode} {r : Reg} (hstore : mayStore i = true) (hwords : i.words = 1)
    (h : storeIndirect p m r s = .next t) : ExecShape s i t := by
  obtain ⟨u, hwrite, hend⟩ := andThen_eq_next.mp (ite_refused_next h)
  obtain rfl := Host.Outcome.next.inj hend
  obtain ⟨_, hbefore⟩ := modeBefore_regs m p (m.address (s.pair p)) s
  rw [hbefore] at hwrite
  obtain ⟨hcfg, hpc, hhold⟩ := memWrite_storedFrom hwrite
  obtain ⟨_, hafter⟩ := modeAfter_regs m p (m.address (s.pair p)) u
  rw [hafter]
  exact hwords ▸ .stores hstore ⟨hcfg, hpc, hhold⟩

theorem callTo_shape {len : Nat} {target : Word} (hstore : mayStore i = true) (hpc : setsPc i = true)
    (h : callTo len target s = .next t) : ExecShape s i t := by
  obtain ⟨u, hpush, hend⟩ := andThen_eq_next.mp h
  obtain rfl := Host.Outcome.next.inj hend
  obtain ⟨m, p, rfl⟩ := pushAddr_ram_sp hpush
  exact .calls hstore hpc m p target

theorem branchIf_shape {taken : Bool} {k : BitVec 7} (hpc : setsPc i = true) (h : branchIf taken k s = .next t) :
    ExecShape s i t := by
  obtain rfl := Host.Outcome.next.inj h
  cases taken with
  | true => exact .jumps hpc _
  | false => exact .jumps hpc _

/-- Every instruction that completes has one of the shapes. -/
theorem exec_shape (h : exec i s = .next t) : ExecShape s i t := by
  cases i with
  | add | adc | lsl | rol | sub | subi | sbc | sbci | neg =>
    exact writeBack_shape withHSVNZC_keeps (by simp [flagsListed]) rfl h
  | and | andi | or | ori | eor | inc | dec | clr =>
    exact writeBack_shape withSVNZ_keeps (by simp [flagsListed]) rfl h
  | com => exact writeBack_shape withC_withSVNZ_keeps (by simp [flagsListed]) rfl h
  | lsr | ror | asr => exact writeBack_shape withSVNZC_keeps (by simp [flagsListed]) rfl h
  | ser => exact writeBack_shape flagsKeptBut_refl (by simp [flagsListed]) rfl h
  | cp | cpc | cpi => exact compareWith_shape rfl rfl h
  | tst d =>
    have hkept : flagsKeptBut [1, 2, 3, 4] s.sreg (flagsLogic s.sreg (s.reg d)) := withSVNZ_keeps
    exact setSreg_shape hkept (hkept.flagI (by simp) ▸ id) rfl h
  | cli => exact setSreg_shape withI_keeps (by simp) rfl h
  | sei =>
    obtain rfl := Host.Outcome.next.inj h
    exact .enables
  | nop =>
    obtain rfl := Host.Outcome.next.inj h
    exact load_shape s.regs s.draws
  | mov | ldi =>
    obtain rfl := Host.Outcome.next.inj h
    exact load_shape _ s.draws
  | lds =>
    obtain ⟨⟨_, _⟩, hread, hend⟩ := andThen_eq_next.mp (ite_refused_next h)
    obtain rfl := Host.Outcome.next.inj hend
    obtain ⟨n, rfl⟩ := memRead_draws hread
    exact load_shape _ n
  | ldX | ldXInc | ldXDec | ldY | ldYInc | ldYDec | lddY | ldZ | ldZInc | ldZDec | lddZ =>
    rw [exec] at h
    exact loadIndirect_shape rfl h
  | lpm | lpmInc =>
    rw [exec] at h
    exact loadFlash_shape rfl h
  | ioIn =>
    obtain ⟨⟨_, _⟩, hread, hend⟩ := andThen_eq_next.mp h
    obtain rfl := Host.Outcome.next.inj hend
    obtain ⟨n, rfl⟩ := ioRead_draws hread
    exact load_shape _ n
  | pop =>
    obtain ⟨⟨_, _⟩, hpop, hend⟩ := andThen_eq_next.mp h
    obtain rfl := Host.Outcome.next.inj hend
    obtain ⟨p, n, rfl⟩ := pop_sp_draws hpop
    exact .pops rfl _ p n
  | stX | stXInc | stXDec | stY | stYInc | stYDec | stdY | stZ | stZInc | stZDec | stdZ =>
    rw [exec] at h
    exact storeIndirect_shape rfl rfl h
  | sts =>
    obtain ⟨_, hwrite, hend⟩ := andThen_eq_next.mp h
    obtain rfl := Host.Outcome.next.inj hend
    exact .stores rfl (memWrite_storedFrom hwrite)
  | ioOut =>
    obtain ⟨_, hwrite, hend⟩ := andThen_eq_next.mp h
    obtain rfl := Host.Outcome.next.inj hend
    exact .stores rfl (ioWrite_storedFrom hwrite)
  | push =>
    obtain ⟨_, hpush, hend⟩ := andThen_eq_next.mp h
    obtain rfl := Host.Outcome.next.inj hend
    obtain ⟨_, _, rfl⟩ := push_ram_sp hpush
    exact .stores rfl (.of_kept rfl rfl rfl rfl)
  | rjmp =>
    obtain rfl := Host.Outcome.next.inj h
    exact .jumps rfl _
  | jmp =>
    obtain ⟨target, -, hend⟩ := andThen_eq_next.mp h
    obtain rfl := Host.Outcome.next.inj hend
    exact .jumps rfl target
  | brbs | brbc | breq | brne | brcs | brcc | brsh | brlo => exact branchIf_shape rfl h
  | rcall => exact callTo_shape rfl rfl h
  | call =>
    obtain ⟨_, -, hcall⟩ := andThen_eq_next.mp h
    exact callTo_shape rfl rfl hcall
  | ret =>
    obtain ⟨p, n, a, rfl⟩ := returnPc_sp_draws h
    exact .returns p n a
  | reti =>
    obtain ⟨_, hret, hend⟩ := andThen_eq_next.mp h
    obtain rfl := Host.Outcome.next.inj hend
    obtain ⟨p, n, a, rfl⟩ := returnPc_sp_draws hret
    exact .returnsEnabling p n a

/-! ### `irq_hold` and I -/

/-- After an instruction `irq_hold` follows SREG as a write of it does (R36), or both it and I are 1 (SEI, RETI). -/
theorem ExecShape.irqHold (h : ExecShape s i t) :
    t.irqHold = (s.irqHold || (!flagI s.sreg && flagI t.sreg)) ∨ (t.irqHold = true ∧ flagI t.sreg = true) := by
  cases h with
  | computes r f n hflags hI =>
    cases hf : flagI f with
    | false => exact .inl (by simp [hf])
    | true => exact .inl (by simp [hI hf])
  | enables | returnsEnabling => exact .inr ⟨rfl, flagI_withI _ _⟩
  | stores hstore hu => exact .inl hu.hold
  | pops | jumps | calls | returns => exact .inl (by simp)

/-- The interrupt entry, taken only where `irq_hold` is 0, leaves it so and clears I (R306). -/
theorem interruptEntry_irq {src : IrqSource} (h : interruptEntry src s = .next t) :
    flagI t.sreg = false ∧ t.irqHold = s.irqHold := by
  obtain ⟨u, hpush, hend⟩ := andThen_eq_next.mp h
  obtain rfl := Host.Outcome.next.inj hend
  obtain ⟨_, _, rfl⟩ := pushAddr_ram_sp hpush
  exact ⟨flagI_withI _ _, rfl⟩

theorem irqHold_of_dueInterrupt {src : IrqSource} (h : s.dueInterrupt = some src) : s.irqHold = false := by
  unfold State.dueInterrupt at h
  split at h
  · next henabled => simpa using (Bool.and_eq_true_iff.mp henabled).2
  · cases h

theorem dueInterrupt_of_irqHold (h : s.irqHold = true) : s.dueInterrupt = none := by
  simp [State.dueInterrupt, h]

/-- What a step makes of `irq_hold` and I: an entry leaves both at 0; an instruction sets `irq_hold` exactly where I goes from
0 to 1, or leaves both at 1, as SEI and RETI do (R305, R306). -/
theorem step_irq (h : step s = .next t) :
    (t.irqHold = false ∧ flagI t.sreg = false) ∨ t.irqHold = (!flagI s.sreg && flagI t.sreg) ∨
      (t.irqHold = true ∧ flagI t.sreg = true) := by
  rcases step_next h with ⟨src, hdue, hentry⟩ | ⟨-, i, -, hexec⟩
  · obtain ⟨hI, hhold⟩ := interruptEntry_irq hentry
    rw [passBoundary_irqHold, irqHold_of_dueInterrupt hdue] at hhold
    exact .inl ⟨hhold, hI⟩
  · exact .inr (exec_shape hexec).irqHold

end

/-- Settles O52: of the three cases of `step_irq` only the last two leave I at 1, and both set `irq_hold`. -/
theorem enablingInterruptsHoldsOne : Obligations.EnablingInterruptsHoldsOne := by
  intro s t hstep hbefore hafter
  have hhold : t.irqHold = true := by
    rcases step_irq hstep with ⟨-, hI⟩ | hhold | ⟨hhold, -⟩
    · rw [hafter] at hI
      cases hI
    · rw [hhold, hbefore, hafter]
      rfl
    · exact hhold
  exact ⟨hhold, dueInterrupt_of_irqHold hhold⟩

/-- Settles O53: whatever `irq_hold` was before, a step leaves it at 1 only with I = 1. -/
theorem holdStandsOnlyWhileEnabled : Obligations.HoldStandsOnlyWhileEnabled := by
  intro s t _ hstep hhold
  rcases step_irq hstep with ⟨hnot, -⟩ | hrule | ⟨-, hI⟩
  · rw [hhold] at hnot
    cases hnot
  · exact (Bool.and_eq_true_iff.mp (hrule.symm.trans hhold)).2
  · exact hI

/-! ### What an instruction that stores nothing keeps -/

/-- Settles O57: of the eight shapes the two that write RAM or a port belong to instructions that may store. -/
theorem nonStoringInstructionsKeepTheRest : Obligations.NonStoringInstructionsKeepTheRest := by
  intro i s t hexec hstores
  cases exec_shape hexec with
  | computes r f n hflags hI => exact ⟨fun _ => rfl, fun _ => rfl, fun _ => rfl, hflags⟩
  | enables => exact ⟨fun _ => rfl, fun _ => rfl, fun _ => rfl, withI_keeps⟩
  | pops hpops => exact ⟨fun _ => rfl, fun _ => rfl, fun hnot => absurd hpops (by simp [hnot]), flagsKeptBut_refl⟩
  | jumps => exact ⟨fun _ => rfl, fun _ => rfl, fun _ => rfl, flagsKeptBut_refl⟩
  | returns => exact ⟨fun _ => rfl, fun _ => rfl, fun hnot => absurd hnot (by decide), flagsKeptBut_refl⟩
  | returnsEnabling => exact ⟨fun _ => rfl, fun _ => rfl, fun hnot => absurd hnot (by decide), withI_keeps⟩
  | stores hstore | calls hstore => exact absurd hstore (by simp [hstores])

/-! ### Where the program counter goes -/

section
variable {s t : State} {i : Instr}

/-- An instruction that is no control transfer ends with the pc its length further on (R26). -/
theorem ExecShape.pcSteps (h : ExecShape s i t) (hbits : s.cfg.pcBits ≤ 16) (hi : setsPc i = false) :
    pcSteps s t i.words := by
  cases h with
  | computes | pops | enables => exact advance_pc_toNat _ _ hbits
  | stores hstore hu =>
    have hstep := advance_pc_toNat _ i.words (hu.cfg ▸ hbits)
    rwa [hu.pc, hu.cfg] at hstep
  | jumps hpc | calls hstore hpc => exact absurd hpc (by simp [hi])
  | returns | returnsEnabling => exact absurd hi (by decide)

/-- What tests a condition is a conditional branch on that condition (R191 to R198). -/
theorem exec_eq_branchIf {c : Bool} (h : branchCondition i s.sreg = some c) : ∃ k, exec i s = branchIf c k s := by
  cases i with
  | brbs _ k | brbc _ k | breq k | brne k | brcs k | brcc k | brsh k | brlo k =>
    obtain rfl := Option.some.inj h
    exact ⟨k, rfl⟩
  | _ => cases h

/-- The two-word instructions (R26, R100). -/
theorem words_eq_two_iff (i : Instr) :
    i.words = 2 ↔ (∃ k, i = .jmp k ∨ i = .call k) ∨ ∃ d k, i = .lds d k ∨ i = .sts k d := by
  cases i with
  | jmp k => exact ⟨fun _ => .inl ⟨k, .inl rfl⟩, fun _ => rfl⟩
  | call k => exact ⟨fun _ => .inl ⟨k, .inr rfl⟩, fun _ => rfl⟩
  | lds d k => exact ⟨fun _ => .inr ⟨d, k, .inl rfl⟩, fun _ => rfl⟩
  | sts k d => exact ⟨fun _ => .inr ⟨d, k, .inr rfl⟩, fun _ => rfl⟩
  | _ => simp [Instr.words]

theorem words_one_or_two (i : Instr) : i.words = 1 ∨ i.words = 2 := by
  cases i with
  | jmp | call | lds | sts => exact .inr rfl
  | _ => exact .inl rfl

end

/-- Settles O58: the shape gives the steps, the branch rule the untaken branch, and the table of lengths the rest. -/
theorem otherInstructionsStepByTheirLength : Obligations.OtherInstructionsStepByTheirLength := by
  intro i s t hbits hexec
  refine ⟨(exec_shape hexec).pcSteps hbits, fun hcond => ?untaken, words_eq_two_iff i, words_one_or_two i⟩
  case untaken =>
    obtain ⟨k, hbranch⟩ := exec_eq_branchIf hcond
    obtain rfl := Host.Outcome.next.inj (hbranch.symm.trans hexec)
    exact advance_pc_toNat s 1 hbits

end Sys2Proof.Machine
end

section
/-! Program memory and data memory: no step writes the one (O56), LPM stops outside it (O48), and every access to the
other goes where the data address map says (O38). -/

namespace Sys2Proof.Machine

/-! ### Program memory -/

/-- Program memory, the configuration and the requests are in none of the updates an instruction or an entry makes. -/
theorem UpdatedFrom.given {s t : State} (h : UpdatedFrom s t) :
    t.flash = s.flash ∧ t.cfg = s.cfg ∧ t.requests = s.requests := by
  induction h with
  | refl => exact ⟨rfl, rfl, rfl⟩
  | setReg _ _ _ ih | setPc _ _ ih | setSreg _ _ ih | setSp _ _ ih | setHold _ _ ih | drawn _ ih | setRam _ _ _ _ ih
  | setLatch _ _ _ ih => exact ih

/-- Settles O56: a step is the passing of the boundary, which drops one set of requests, and then updates of
`UpdatedFrom`. -/
theorem stepNeverWritesProgramMemory : Obligations.StepNeverWritesProgramMemory := by
  intro s t hstep
  rcases step_updatedFrom hstep with h | h
  · exact h.given
  · exact h.given

theorem flashByte_outside {b : Word} {s : State} (h : s.cfg.flashWords ≤ b.toNat / 2) :
    flashByte b s = .fault (.lpmOutsideFlash b) := by
  have hword : (b >>> 1).toNat = b.toNat / 2 := by rw [BitVec.toNat_ushiftRight, Nat.shiftRight_eq_div_pow, pow_one]
  rw [flashByte, inFlash_eq_false (hword ▸ h)]
  exact if_neg Bool.false_ne_true

theorem half_eq_false {p : Pointer} {d : Reg} (hlow : d ≠ p.low) (hhigh : d ≠ p.high) : p.half d = false := by
  simp [Pointer.half, hlow, hhigh]

theorem loadFlash_outside {m : Mode} {d : Reg} {s : State} (hclash : m.clashes .z d = false)
    (h : s.cfg.flashWords ≤ (s.pair .z).toNat / 2) :
    loadFlash m d s = .fault (.lpmOutsideFlash (s.pair .z)) := by
  simp only [loadFlash, hclash, Bool.false_eq_true, if_false, flashByte_outside h, andThen_fault]

/-- Settles O48: neither form clashes with its pointer, and then the read comes first. -/
theorem lpmOutsideFlashFaults : Obligations.LpmOutsideFlashFaults := by
  intro s d houtside
  have hplain : loadFlash .plain d s = .fault (.lpmOutsideFlash (s.pair .z)) := loadFlash_outside rfl houtside
  refine ⟨hplain, fun hlow hhigh => ?postInc⟩
  case postInc =>
    have hclash : Mode.postInc.clashes .z d = false := half_eq_false (p := .z) hlow hhigh
    exact loadFlash_outside hclash houtside

/-! ### Words and their two bytes, on numbers -/

theorem lowByte_toNat (w : Word) : (w.extractLsb' 0 8).toNat = w.toNat % 256 := by simp

theorem highByte_toNat (w : Word) : (w.extractLsb' 8 8).toNat = w.toNat / 256 := by
  have hlt := w.isLt
  rw [BitVec.extractLsb'_toNat, Nat.shiftRight_eq_div_pow]
  exact Nat.mod_eq_of_lt (by omega)

theorem lowByte_eq_ofNat (w : Word) : w.extractLsb' 0 8 = BitVec.ofNat 8 w.toNat := rfl

theorem highByte_eq_ofNat (w : Word) : w.extractLsb' 8 8 = BitVec.ofNat 8 (w.toNat / 256) := by
  rw [← highByte_toNat, BitVec.ofNat_toNat, BitVec.setWidth_eq]

theorem append_eq_ofNat (hi lo : Byte) : (hi ++ lo : Word) = BitVec.ofNat 16 (hi.toNat * 256 + lo.toNat) := by
  have hhi := hi.isLt
  have hlo := lo.isLt
  apply BitVec.eq_of_toNat_eq
  rw [BitVec.toNat_append, ← Nat.shiftLeft_add_eq_or_of_lt hlo, Nat.shiftLeft_eq, BitVec.toNat_ofNat,
    Nat.mod_eq_of_lt (by omega)]

/-! ### Data memory -/

section
variable {a : Word} {s : State}

theorem memRead_reg (h : a.toNat < 0x20) : memRead a s = .next (s.reg (BitVec.ofNat 5 a.toNat), s) := by
  have hplace : dataPlace s.cfg a = .reg (BitVec.ofNat 5 a.toNat) := if_pos h
  simp only [memRead, hplace]

theorem memWrite_reg (v : Byte) (h : a.toNat < 0x20) :
    memWrite a v s = .next (s.setReg (BitVec.ofNat 5 a.toNat) v) := by
  have hplace : dataPlace s.cfg a = .reg (BitVec.ofNat 5 a.toNat) := if_pos h
  simp only [memWrite, hplace]

theorem dataPlace_io {c : Config} (h : 0x20 ≤ a.toNat) (h1 : a.toNat < 0x60) :
    dataPlace c a = .io (BitVec.ofNat 6 (a.toNat - 0x20)) :=
  (if_neg (Nat.not_lt_of_le h)).trans (if_pos h1)

theorem memRead_io (h : 0x20 ≤ a.toNat) (h1 : a.toNat < 0x60) :
    memRead a s = ioRead (BitVec.ofNat 6 (a.toNat - 0x20)) s := by
  simp only [memRead, dataPlace_io h h1]

theorem memWrite_io (v : Byte) (h : 0x20 ≤ a.toNat) (h1 : a.toNat < 0x60) :
    memWrite a v s = ioWrite (BitVec.ofNat 6 (a.toNat - 0x20)) v s := by
  simp only [memWrite, dataPlace_io h h1]

theorem dataPlace_nothing {c : Config} (h : 0x60 ≤ a.toNat) (h1 : a.toNat < c.sramStart ∨ c.ramEnd < a.toNat) :
    dataPlace c a = .nothing := by
  rcases dataPlace_cases c a with ⟨hlt, -⟩ | ⟨-, hlt, -⟩ | ⟨-, hlow, hhigh, -⟩ | ⟨-, -, hplace⟩
  · omega
  · omega
  · omega
  · exact hplace

theorem memRead_nothing (h : 0x60 ≤ a.toNat) (h1 : a.toNat < s.cfg.sramStart ∨ s.cfg.ramEnd < a.toNat) :
    memRead a s = .fault (.noMemory a) := by
  simp only [memRead, dataPlace_nothing h h1]

theorem memWrite_nothing (v : Byte) (h : 0x60 ≤ a.toNat)
    (h1 : a.toNat < s.cfg.sramStart ∨ s.cfg.ramEnd < a.toNat) : memWrite a v s = .fault (.noMemory a) := by
  simp only [memWrite, dataPlace_nothing h h1]

/-- A load of a RAM byte in the terms of the statements: its value, and its draws (R62, D22). -/
theorem ramRead_eq (a : Word) (s : State) :
    ramRead a s = (ramValue s a, { s with draws := s.draws + ramDraws s a }) := by
  rcases ramRead_cases a s with ⟨v, hbyte, hread⟩ | ⟨hbyte, hread⟩
  · rw [hread, ramValue, ramDraws, hbyte]
    rfl
  · rw [hread, ramValue, ramDraws, hbyte]
    rfl

end

/-- Settles O38: one lemma per range and direction; what a write changes is said by the laws of `setReg` and
`setRam`. -/
theorem dataAccessFollowsTheMap : Obligations.DataAccessFollowsTheMap := by
  intro s a v
  refine ⟨fun h => ⟨memRead_reg h, _, memWrite_reg v h, setReg_reg_same .., ?otherRegs, rfl⟩,
    fun h h1 => ⟨memRead_io h h1, memWrite_io v h h1⟩,
    fun ⟨h, h1, h2⟩ => ⟨⟨_, ?load, rfl⟩, _, memWrite_ram v h h1 h2, ?stored, ?otherBytes, rfl⟩,
    fun h h1 => ⟨memRead_nothing h h1, memWrite_nothing v h h1⟩⟩
  case otherRegs =>
    intro x hx
    exact setReg_reg_ne s _ x v (List.mem_singleton.not.mp hx)
  case load => rw [memRead_ram h h1 h2, ramRead_eq]
  case stored => rw [setRam_ramByte, if_pos rfl]
  case otherBytes =>
    intro b hb
    rw [setRam_ramByte, if_neg (List.mem_singleton.not.mp hb)]

end Sys2Proof.Machine
end

section
/-! The I/O space (O39).  In a legal configuration no two registers share an I/O address, so the tests in `ioReg` answer
at each address the one register that stands there. -/

namespace Sys2Proof

/-- The I/O addresses of a port's three registers (R34). -/
def PortMap.addresses (p : PortMap) : List IoAddr := [p.pinIo, p.ddrIo, p.portIo]

theorem PortMap.pinIo_mem (p : PortMap) : p.pinIo ∈ p.addresses := .head _

theorem PortMap.ddrIo_mem (p : PortMap) : p.ddrIo ∈ p.addresses := .tail _ (.head _)

theorem PortMap.portIo_mem (p : PortMap) : p.portIo ∈ p.addresses := .tail _ (.tail _ (.head _))

theorem Config.ioAddresses_eq (c : Config) :
    c.ioAddresses = [c.sregIo, c.sphIo, c.splIo] ++ c.ports.flatMap PortMap.addresses := rfl

theorem Config.ioAddresses_nodup {c : Config} (h : c.wf = true) : c.ioAddresses.Nodup := by
  simp only [Config.wf, Bool.and_eq_true, decide_eq_true_eq] at h
  obtain ⟨⟨⟨-, hnodup⟩, -⟩, -⟩ := h
  exact hnodup

section
variable {c : Config} {p q : PortMap} {a : IoAddr}

theorem Config.core_addresses_ne (h : c.wf = true) :
    c.splIo ≠ c.sregIo ∧ c.sphIo ≠ c.sregIo ∧ c.sphIo ≠ c.splIo := by
  have hnodup := (List.nodup_append.mp (c.ioAddresses_eq ▸ Config.ioAddresses_nodup h)).1
  simp only [List.nodup_cons, List.mem_cons, List.not_mem_nil, or_false, not_or] at hnodup
  obtain ⟨⟨hsph, hspl⟩, hsphspl, -⟩ := hnodup
  exact ⟨Ne.symm hspl, Ne.symm hsph, hsphspl⟩

theorem Config.port_address_ne_core (h : c.wf = true) (hp : p ∈ c.ports) (ha : a ∈ p.addresses) :
    a ≠ c.sregIo ∧ a ≠ c.splIo ∧ a ≠ c.sphIo := by
  obtain ⟨-, -, hne⟩ := List.nodup_append.mp (c.ioAddresses_eq ▸ Config.ioAddresses_nodup h)
  have hmem : a ∈ c.ports.flatMap PortMap.addresses := List.mem_flatMap.mpr ⟨p, hp, ha⟩
  exact ⟨(hne _ (by simp) a hmem).symm, (hne _ (by simp) a hmem).symm, (hne _ (by simp) a hmem).symm⟩

theorem Config.port_addresses_ne (h : c.wf = true) (hp : p ∈ c.ports) :
    p.ddrIo ≠ p.pinIo ∧ p.portIo ≠ p.pinIo ∧ p.ddrIo ≠ p.portIo := by
  obtain ⟨-, hports, -⟩ := List.nodup_append.mp (c.ioAddresses_eq ▸ Config.ioAddresses_nodup h)
  have hnodup := (List.nodup_flatMap.mp hports).1 p hp
  simp only [PortMap.addresses, List.nodup_cons, List.mem_cons, List.not_mem_nil, or_false, not_or] at hnodup
  obtain ⟨⟨hddr, hport⟩, hddrport, -⟩ := hnodup
  exact ⟨Ne.symm hddr, Ne.symm hport, hddrport⟩

/-- No two ports share an I/O address. -/
theorem Config.port_eq_of_address (h : c.wf = true) (hp : p ∈ c.ports) (hq : q ∈ c.ports) (ha : a ∈ p.addresses)
    (hb : a ∈ q.addresses) : p = q := by
  obtain ⟨-, hports, -⟩ := List.nodup_append.mp (c.ioAddresses_eq ▸ Config.ioAddresses_nodup h)
  have hdisjoint := (List.nodup_flatMap.mp hports).2
  have hsymm : Std.Symm (Function.onFun List.Disjoint PortMap.addresses) :=
    ⟨fun _ _ h => List.disjoint_symm h⟩
  by_contra hne
  exact hdisjoint.forall hp hq hne ha hb

end
end Sys2Proof

namespace Sys2Proof.Machine
section
variable {c : Config} {p : PortMap} {s : State} {a : IoAddr}

theorem ioReg_sregIo (c : Config) : ioReg c c.sregIo = some .sreg := if_pos rfl

theorem ioReg_splIo (h : c.wf = true) : ioReg c c.splIo = some .spl := by
  obtain ⟨hsreg, -, -⟩ := Config.core_addresses_ne h
  simp [ioReg, hsreg]

theorem ioReg_sphIo (h : c.wf = true) : ioReg c c.sphIo = some .sph := by
  obtain ⟨-, hsreg, hspl⟩ := Config.core_addresses_ne h
  simp [ioReg, hsreg, hspl]

/-- At an address of `p` no port has its register `f`, where `p` itself does not. -/
theorem ports_any_eq_false (h : c.wf = true) (hp : p ∈ c.ports) (ha : a ∈ p.addresses) {f : PortMap → IoAddr}
    (hf : ∀ q : PortMap, f q ∈ q.addresses) (hne : f p ≠ a) : c.ports.any (fun q => f q == a) = false := by
  refine List.any_eq_false.mpr fun q hq heq => ?_
  have hqa : f q = a := by simpa using heq
  obtain rfl : p = q := Config.port_eq_of_address h hp hq ha (hqa ▸ hf q)
  exact hne hqa

theorem ioReg_ddrIo (h : c.wf = true) (hp : p ∈ c.ports) : ioReg c p.ddrIo = some .ddr := by
  obtain ⟨hsreg, hspl, hsph⟩ := Config.port_address_ne_core h hp p.ddrIo_mem
  have hddr : c.ports.any (fun q => q.ddrIo == p.ddrIo) = true := List.any_eq_true.mpr ⟨p, hp, beq_self_eq_true _⟩
  simp [ioReg, hsreg, hspl, hsph, hddr]

theorem ioReg_portIo (h : c.wf = true) (hp : p ∈ c.ports) : ioReg c p.portIo = some .port := by
  obtain ⟨hsreg, hspl, hsph⟩ := Config.port_address_ne_core h hp p.portIo_mem
  obtain ⟨-, -, hne⟩ := Config.port_addresses_ne h hp
  have hddr := ports_any_eq_false h hp p.portIo_mem PortMap.ddrIo_mem hne
  have hport : c.ports.any (fun q => q.portIo == p.portIo) = true := List.any_eq_true.mpr ⟨p, hp, beq_self_eq_true _⟩
  simp [ioReg, hsreg, hspl, hsph, hddr, hport]

theorem ioReg_pinIo (h : c.wf = true) (hp : p ∈ c.ports) : ioReg c p.pinIo = some .pin := by
  obtain ⟨hsreg, hspl, hsph⟩ := Config.port_address_ne_core h hp p.pinIo_mem
  obtain ⟨hneDdr, hnePort, -⟩ := Config.port_addresses_ne h hp
  have hddr := ports_any_eq_false h hp p.pinIo_mem PortMap.ddrIo_mem hneDdr
  have hport := ports_any_eq_false h hp p.pinIo_mem PortMap.portIo_mem hnePort
  have hpin : c.ports.any (fun q => q.pinIo == p.pinIo) = true := List.any_eq_true.mpr ⟨p, hp, beq_self_eq_true _⟩
  simp [ioReg, hsreg, hspl, hsph, hddr, hport, hpin]

/-- An address that no register is given to (R65). -/
theorem ioReg_eq_none (ha : a ∉ c.ioAddresses) : ioReg c a = none := by
  simp only [Config.ioAddresses_eq, List.mem_append, List.mem_cons, List.not_mem_nil, or_false, List.mem_flatMap,
    not_or, not_exists, not_and] at ha
  obtain ⟨⟨hsreg, hsph, hspl⟩, hports⟩ := ha
  have hany : ∀ f : PortMap → IoAddr, (∀ q : PortMap, f q ∈ q.addresses) → c.ports.any (fun q => f q == a) = false :=
    fun f hf => List.any_eq_false.mpr fun q hq heq => hports q hq (eq_of_beq heq ▸ hf q)
  simp [ioReg, hsreg, hspl, hsph, hany _ PortMap.ddrIo_mem, hany _ PortMap.portIo_mem, hany _ PortMap.pinIo_mem]

end

theorem ioRead_latch {a : IoAddr} {s : State} (h : ioReg s.cfg a = some .ddr ∨ ioReg s.cfg a = some .port) :
    ioRead a s = .next (s.latch a, s) := by
  rcases h with h | h
  · simp only [ioRead, h]
  · simp only [ioRead, h]

theorem ioWrite_latch {a : IoAddr} {s : State} (v : Byte)
    (h : ioReg s.cfg a = some .ddr ∨ ioReg s.cfg a = some .port) : ioWrite a v s = .next (s.setLatch a v) := by
  rcases h with h | h
  · simp only [ioWrite, h]
  · simp only [ioWrite, h]

/-- Settles O39: which register stands at each address (R63), then the table's row of that register. -/
theorem ioAccessFollowsTheTable : Obligations.IoAccessFollowsTheTable := by
  intro s v hwf hlatches
  refine ⟨⟨?readSreg, ?readSpl, ?readSph⟩, ⟨?writeSreg, ?writeSpl, ?writeSph⟩, fun p hp => ⟨?latch, ?pin⟩, ?none⟩
  case readSreg => simp only [ioRead, ioReg_sregIo]
  case readSpl => simp only [ioRead, ioReg_splIo hwf, lowByte_eq_ofNat]
  case readSph => simp only [ioRead, ioReg_sphIo hwf, highByte_eq_ofNat]
  case writeSreg =>
    simp only [ioWrite, ioReg_sregIo]
    rfl
  case writeSpl =>
    simp only [ioWrite, ioReg_splIo hwf, append_eq_ofNat, highByte_toNat]
    rfl
  case writeSph =>
    simp only [ioWrite, ioReg_sphIo hwf, append_eq_ofNat, lowByte_toNat]
    rfl
  case latch =>
    intro a ha
    have hio : ioReg s.cfg a = some .ddr ∨ ioReg s.cfg a = some .port := by
      rcases ha with rfl | rfl
      · exact .inl (ioReg_ddrIo hwf hp)
      · exact .inr (ioReg_portIo hwf hp)
    exact ⟨ioRead_latch hio, _, ioWrite_latch v hio, (setLatch_latch hlatches a a v).trans (if_pos rfl),
      fun b hb => setLatch_latch_ne s a b v hb, rfl⟩
  case pin =>
    simp only [ioRead, ioWrite, ioReg_pinIo hwf hp, and_true]
    rfl
  case none =>
    intro a ha
    simp only [ioRead, ioWrite, ioReg_eq_none ha, and_self]

end Sys2Proof.Machine
end

section
/-! The stack (O45).  Where a stack byte lies decides whether a push or a pop runs or how it stops; the calls and the
returns are sequences of these. -/

namespace Sys2Proof.Machine

theorem andThen_assoc {α β γ : Type} (x : Result α) (f : α → Result β) (g : β → Result γ) :
    andThen (andThen x f) g = andThen x fun a => andThen (f a) g := by
  cases x <;> rfl

/-- Setting I sets bit 7 (R286, R309). -/
theorem withI_true (x : Byte) : withI x true = x ||| 0x80 := by
  revert x; decide

section
variable {s t : State}

/-- A push at a stack byte with nothing behind it (R62, R70). -/
theorem push_nothing (v : Byte) (h : 0x60 ≤ s.sp.toNat)
    (h1 : s.sp.toNat < s.cfg.sramStart ∨ s.cfg.ramEnd < s.sp.toNat) : push v s = .fault (.noMemory s.sp) := by
  rw [push, stackAccess_above _ h, memWrite_nothing v h h1, andThen_fault]

theorem push_below (v : Byte) (h : s.sp.toNat < 0x60) : push v s = .refused (.stackOutsideRam s.sp) := by
  rw [push, stackAccess_below _ h, andThen_refused]

/-- A pop at a stack byte with nothing behind it (R62, R70). -/
theorem pop_nothing (h : 0x60 ≤ (s.sp + 1).toNat)
    (h1 : (s.sp + 1).toNat < s.cfg.sramStart ∨ s.cfg.ramEnd < (s.sp + 1).toNat) :
    pop s = .fault (.noMemory (s.sp + 1)) := by
  rw [pop, stackAccess_above _ h]
  exact memRead_nothing h h1

/-- An address that was pushed found two stack bytes in RAM (R71). -/
theorem stackRoom_of_pushAddr {ra : Word} (h : pushAddr ra s = .next t) : stackRoom s := by
  obtain ⟨u, hlo, hhi⟩ := pushAddr_next h
  obtain ⟨hlow, hstart, hend, rfl⟩ := push_next hlo
  obtain ⟨hlow1, hstart1, hend1, -⟩ := push_next hhi
  exact ⟨⟨hlow, hstart, hend⟩, hlow1, hstart1, hend1⟩

/-- An address that was popped came from two stack bytes in RAM (R71). -/
theorem stackHolds_of_popAddr {ra : Word} (h : popAddr s = .next (ra, t)) : stackHolds s := by
  obtain ⟨_, u, _, hhi, hlo, -⟩ := popAddr_next h
  obtain ⟨hlow, hstart, hend, hread⟩ := pop_next hhi
  obtain ⟨hlow1, hstart1, hend1, -⟩ := pop_next hlo
  rw [ramRead_eq] at hread
  obtain ⟨-, rfl⟩ := Prod.mk.inj hread
  have hsp : s.sp + 1 + 1 = s.sp + 2 := by bv_omega
  exact ⟨⟨hlow, hstart, hend⟩, hsp ▸ ⟨hlow1, hstart1, hend1⟩⟩

theorem stackRoom_of_callTo {len : Nat} {target : Word} (h : callTo len target s = .next t) : stackRoom s := by
  obtain ⟨u, hpush, -⟩ := andThen_eq_next.mp h
  exact stackRoom_of_pushAddr hpush

theorem stackHolds_of_returnPc (h : returnPc s = .next t) : stackHolds s := by
  obtain ⟨⟨ra, u⟩, hpop, -⟩ := andThen_eq_next.mp h
  exact stackHolds_of_popAddr hpop

/-- A return pops the high byte, then the low one (R71, R185). -/
theorem returnPc_eq (s : State) :
    returnPc s = andThen (pop s) fun x => andThen (pop x.2) fun y => .next (y.2.setPc (x.1 ++ y.1)) := by
  simp only [returnPc, popAddr, andThen_assoc, andThen_next]

/-- An absolute target below `2^PC_BITS` is the target (R182, R184). -/
theorem absTarget_eq {k : BitVec 22} (h : k.toNat < 2 ^ s.cfg.pcBits) :
    absTarget k s = .next (BitVec.ofNat 16 k.toNat) := if_pos h

end

/-- Settles O45: where the stack byte lies decides whether it runs or how it stops; in RAM the instructions are the
sequences of their pseudocode, and none of them answers a next state unless both its bytes were there. -/
theorem stackInstructionsFollowTheirPseudocode : Obligations.StackInstructionsFollowTheirPseudocode := by
  intro s r k a v ra
  refine ⟨fun ⟨h, _, _⟩ => ?push, push_below v, push_nothing v, fun ⟨h, _, _⟩ => stackAccess_above _ h,
    stackAccess_below _, pop_nothing, ?pushAddr, rfl, rfl, rfl, fun h => ?call, returnPc_eq s, ?reti,
    fun hroom t => ⟨fun h => hroom (stackRoom_of_callTo h), fun h => ?callStops⟩,
    fun hholds t => ⟨fun h => hholds (stackHolds_of_returnPc h), fun h => ?retiStops⟩⟩
  case push =>
    rw [push, stackAccess_above _ h]
    rfl
  case pushAddr => rw [pushAddr, lowByte_eq_ofNat, highByte_eq_ofNat]
  case call =>
    have habs : exec (.call a) s = andThen (absTarget a s) fun target => callTo 2 target s := rfl
    rw [habs, absTarget_eq h]
    rfl
  case reti =>
    have hreti : exec .reti s =
      andThen (exec .ret s) fun t => .next { t with sreg := withI t.sreg true, irqHold := true } := rfl
    simp only [hreti, withI_true]
  case callStops =>
    obtain ⟨_, -, hcall⟩ := andThen_eq_next.mp h
    exact hroom (stackRoom_of_callTo hcall)
  case retiStops =>
    obtain ⟨_, hret, -⟩ := andThen_eq_next.mp h
    exact hholds (stackHolds_of_returnPc hret)

end Sys2Proof.Machine
end

section
/-! The decoder reads what the encoder writes, and so an instruction that stands at pc is the one the step runs (O7).  A
format's word is a concatenation of fields: under the mask of its rows the operand fields vanish, and each operand is
found at its place.  No two rows match one word, so the row that matches is the row that is found. -/

namespace Sys2Proof

/-! ### The row that a word finds -/

/-- No word matches both `p` under the mask `m` and `q` under the mask `n`: the two ask for different bits somewhere. -/
def patternsApart (p m q n : Word) : Bool := p &&& n != q &&& m

theorem ne_of_patternsApart {w p m q n : Word} (h : patternsApart p m q n = true) (hw : w &&& m = p) :
    w &&& n ≠ q := by
  rintro rfl
  subst hw
  simp [patternsApart, BitVec.and_assoc, BitVec.and_comm n m] at h

/-- The rows of R115 ask for different bits, pair by pair (R117). -/
theorem rows_apart : rows.Pairwise fun x y => patternsApart x.pattern x.mask y.pattern y.mask = true := by decide

theorem row_unique {w : Word} {x y : Row} (hx : x ∈ rows) (hy : y ∈ rows) (hwx : w &&& x.mask = x.pattern)
    (hwy : w &&& y.mask = y.pattern) : x = y := by
  have hsymm : Std.Symm fun x y : Row => w &&& x.mask = x.pattern → w &&& y.mask ≠ y.pattern :=
    ⟨fun _ _ hxy hwy hwx => hxy hwx hwy⟩
  have hpairs : rows.Pairwise fun x y => w &&& x.mask = x.pattern → w &&& y.mask ≠ y.pattern :=
    rows_apart.imp ne_of_patternsApart
  by_contra hne
  exact hpairs.forall hx hy hne hwx hwy

theorem rowOf_eq_some {w : Word} {r : Row} (hr : r ∈ rows) (hw : w &&& r.mask = r.pattern) : rowOf w = some r := by
  obtain ⟨x, hx⟩ := Machine.rowOf_isSome ⟨r, hr, hw⟩
  have hhits : w &&& x.mask = x.pattern := by simpa [Row.hits] using List.find?_some hx
  rw [hx, row_unique (List.mem_of_find?_eq_some hx) hr hhits hw]

theorem mem_rows_of_arithLogic {r : Row} (h : r ∈ rowsArithLogic) : r ∈ rows := by simp [rows, h]

theorem mem_rows_of_control {r : Row} (h : r ∈ rowsControl) : r ∈ rows := by simp [rows, h]

theorem mem_rows_of_transfer {r : Row} (h : r ∈ rowsTransfer) : r ∈ rows := by simp [rows, h]

theorem mem_rows_of_shift {r : Row} (h : r ∈ rowsShift) : r ∈ rows := by simp [rows, h]

theorem mem_rows_of_misc {r : Row} (h : r ∈ rowsMisc) : r ∈ rows := by simp [rows, h]

/-! ### The length that a row's pattern fixes -/

/-- The length test of R114 fails on every word that matches the row. -/
def Row.oneWord (r : Row) : Bool :=
  patternsApart r.pattern r.mask 0x940C 0xFE0C && patternsApart r.pattern r.mask 0x9000 0xFC0F

/-- The length test of R114 reads bits that the row fixes, and passes on them. -/
def Row.twoWords (r : Row) : Bool :=
  (r.mask &&& 0xFE0C == 0xFE0C && r.pattern &&& 0xFE0C == 0x940C) ||
    (r.mask &&& 0xFC0F == 0xFC0F && r.pattern &&& 0xFC0F == 0x9000)

theorem isTwoWord_eq_false {w : Word} {r : Row} (h : r.oneWord = true) (hw : w &&& r.mask = r.pattern) :
    isTwoWord w = false := by
  obtain ⟨hjump, hdirect⟩ := Bool.and_eq_true_iff.mp h
  rw [Bool.eq_false_iff, ne_eq, Machine.isTwoWord_iff]
  rintro (hw' | hw')
  · exact ne_of_patternsApart hjump hw hw'
  · exact ne_of_patternsApart hdirect hw hw'

/-- A word that matches `p` under `m` is known on every bit of `m`. -/
theorem and_eq_of_matches {w p m n : Word} (hw : w &&& m = p) (hn : m &&& n = n) : w &&& n = p &&& n := by
  rw [← hw, BitVec.and_assoc, hn]

theorem isTwoWord_eq_true {w : Word} {r : Row} (h : r.twoWords = true) (hw : w &&& r.mask = r.pattern) :
    isTwoWord w = true := by
  simp only [Row.twoWords, Bool.or_eq_true, Bool.and_eq_true, beq_iff_eq] at h
  rw [Machine.isTwoWord_iff]
  rcases h with ⟨hmask, hpattern⟩ | ⟨hmask, hpattern⟩
  · exact .inl ((and_eq_of_matches hw hmask).trans hpattern)
  · exact .inr ((and_eq_of_matches hw hmask).trans hpattern)

/-- A row of R115 whose words stand alone. -/
structure OneWordRow (r : Row) : Prop where
  mem : r ∈ rows
  length : r.oneWord = true

/-- A row of R115 whose words have a second word after them. -/
structure TwoWordRow (r : Row) : Prop where
  mem : r ∈ rows
  length : r.twoWords = true

/-! ### Decoding the words of an instruction -/

section
variable {i : Instr} {w w2 : Word} {r : Row}

theorem encode_oneWord (h : encodeWords i = [w]) : encode i = bytesOfWord w := by simp [encode, h]

theorem encode_twoWords (h : encodeWords i = [w, w2]) : encode i = bytesOfWord w ++ bytesOfWord w2 := by
  simp [encode, h]

theorem decode_oneWord (hwords : encodeWords i = [w]) (hr : OneWordRow r)
    (hw : w &&& r.mask = r.pattern) (hbuild : r.build w 0 = i) (rest : List Byte) :
    decode (encode i ++ rest) = .ok (i, rest) := by
  simp only [encode_oneWord hwords, bytesOfWord, List.cons_append, List.nil_append, decode,
    Machine.wordOfBytes_extractLsb', rowOf_eq_some hr.mem hw, isTwoWord_eq_false hr.length hw, Bool.false_eq_true,
    if_false, hbuild]

theorem decode_twoWords (hwords : encodeWords i = [w, w2]) (hr : TwoWordRow r)
    (hw : w &&& r.mask = r.pattern) (hbuild : r.build w w2 = i) (rest : List Byte) :
    decode (encode i ++ rest) = .ok (i, rest) := by
  simp only [encode_twoWords hwords, bytesOfWord, List.cons_append, List.nil_append, decode,
    Machine.wordOfBytes_extractLsb', rowOf_eq_some hr.mem hw, isTwoWord_eq_true hr.length hw, if_true, hbuild]

end

/-! ### The formats of R103 to R112

For each format: its word under the mask of its rows, its operand fields, and with these the decoding of its forms,
which their row builds from the operands by `build`. -/

/-- A bit vector is its high part before its low part. -/
theorem extract_high_append_low {m n : Nat} (x : BitVec (m + n)) : x.extractLsb' n m ++ x.extractLsb' 0 n = x := by
  rw [BitVec.extractLsb'_append_extractLsb'_eq_extractLsb' (by simp), BitVec.extractLsb'_eq_self]

/-- Bits above the low `w` of a concatenation are bits of its high part. -/
theorem extract_skip {v start len : Nat} {hi : BitVec v} {x : BitVec len} (w : Nat) {lo : BitVec w}
    (h : hi.extractLsb' (start - w) len = x) (hw : w ≤ start := by decide) : (hi ++ lo).extractLsb' start len = x :=
  (BitVec.extractLsb'_append_eq_of_le hw).trans h

section
variable {i : Instr}

theorem encRR_and_mask (op : BitVec 6) (d r : Reg) :
    encRR op d r &&& 0xFC00 = op ++ 0#1 ++ 0#5 ++ 0#4 := by
  have hmask : (0xFC00 : Word) = BitVec.allOnes 6 ++ 0#1 ++ 0#5 ++ 0#4 := rfl
  rw [encRR, hmask]
  repeat rw [BitVec.and_append]
  simp only [BitVec.and_allOnes, BitVec.and_zero]

theorem fieldD_encRR (op : BitVec 6) (d r : Reg) : fieldD (encRR op d r) = d :=
  extract_skip 4 <| BitVec.extractLsb'_append_eq_right

theorem fieldR_encRR (op : BitVec 6) (d r : Reg) : fieldR (encRR op d r) = r := by
  have hhigh : field (encRR op d r) 9 1 = r.extractLsb' 4 1 :=
    extract_skip 4 <| extract_skip 5 <| BitVec.extractLsb'_append_eq_right
  have hlow : field (encRR op d r) 0 4 = r.extractLsb' 0 4 := BitVec.extractLsb'_append_eq_right
  rw [fieldR, hhigh, hlow]
  exact extract_high_append_low (m := 1) (n := 4) r

theorem decode_encRR {op : BitVec 6} {d r : Reg} {build : Reg → Reg → Instr}
    (hwords : encodeWords i = [encRR op d r]) (hi : build d r = i)
    (hr : OneWordRow
      ⟨op ++ 0#1 ++ 0#5 ++ 0#4, 0xFC00, fun w _ => build (fieldD w) (fieldR w)⟩) (rest : List Byte) :
    decode (encode i ++ rest) = .ok (i, rest) :=
  decode_oneWord hwords hr (encRR_and_mask op d r) (by simp only [fieldD_encRR, fieldR_encRR, hi]) rest

theorem encRI_and_mask (op : BitVec 4) (d : HighReg) (k : Byte) :
    encRI op d k &&& 0xF000 = op ++ 0#4 ++ 0#4 ++ 0#4 := by
  have hmask : (0xF000 : Word) = BitVec.allOnes 4 ++ 0#4 ++ 0#4 ++ 0#4 := rfl
  rw [encRI, hmask]
  repeat rw [BitVec.and_append]
  simp only [BitVec.and_allOnes, BitVec.and_zero]

theorem fieldHigh_encRI (op : BitVec 4) (d : HighReg) (k : Byte) : fieldHigh (encRI op d k) = d :=
  extract_skip 4 <| BitVec.extractLsb'_append_eq_right

theorem fieldK_encRI (op : BitVec 4) (d : HighReg) (k : Byte) : fieldK (encRI op d k) = k := by
  have hhigh : field (encRI op d k) 8 4 = k.extractLsb' 4 4 :=
    extract_skip 4 <| extract_skip 4 <| BitVec.extractLsb'_append_eq_right
  have hlow : field (encRI op d k) 0 4 = k.extractLsb' 0 4 := BitVec.extractLsb'_append_eq_right
  rw [fieldK, hhigh, hlow]
  exact extract_high_append_low (m := 4) (n := 4) k

theorem decode_encRI {op : BitVec 4} {d : HighReg} {k : Byte} {build : HighReg → Byte → Instr}
    (hwords : encodeWords i = [encRI op d k]) (hi : build d k = i)
    (hr : OneWordRow
      ⟨op ++ 0#4 ++ 0#4 ++ 0#4, 0xF000, fun w _ => build (fieldHigh w) (fieldK w)⟩) (rest : List Byte) :
    decode (encode i ++ rest) = .ok (i, rest) :=
  decode_oneWord hwords hr (encRI_and_mask op d k) (by simp only [fieldHigh_encRI, fieldK_encRI, hi]) rest

theorem encR1_and_mask (op : BitVec 4) (d : Reg) :
    encR1 op d &&& 0xFE0F = 0b1001010#7 ++ 0#5 ++ op := by
  have hmask : (0xFE0F : Word) = BitVec.allOnes 7 ++ 0#5 ++ BitVec.allOnes 4 := rfl
  rw [encR1, hmask]
  repeat rw [BitVec.and_append]
  simp only [BitVec.and_allOnes, BitVec.and_zero]

theorem fieldD_encR1 (op : BitVec 4) (d : Reg) : fieldD (encR1 op d) = d :=
  extract_skip 4 <| BitVec.extractLsb'_append_eq_right

theorem decode_encR1 {op : BitVec 4} {d : Reg} {build : Reg → Instr} (hwords : encodeWords i = [encR1 op d])
    (hi : build d = i) (hr : OneWordRow
      ⟨0b1001010#7 ++ 0#5 ++ op, 0xFE0F, fun w _ => build (fieldD w)⟩) (rest : List Byte) :
    decode (encode i ++ rest) = .ok (i, rest) :=
  decode_oneWord hwords hr (encR1_and_mask op d) (by simp only [fieldD_encR1, hi]) rest

theorem encRel12_and_mask (op : BitVec 4) (k : BitVec 12) :
    encRel12 op k &&& 0xF000 = op ++ 0#12 := by
  have hmask : (0xF000 : Word) = BitVec.allOnes 4 ++ 0#12 := rfl
  rw [encRel12, hmask]
  repeat rw [BitVec.and_append]
  simp only [BitVec.and_allOnes, BitVec.and_zero]

theorem fieldRel12_encRel12 (op : BitVec 4) (k : BitVec 12) : fieldRel12 (encRel12 op k) = k :=
  BitVec.extractLsb'_append_eq_right

theorem decode_encRel12 {op : BitVec 4} {k : BitVec 12} {build : BitVec 12 → Instr}
    (hwords : encodeWords i = [encRel12 op k]) (hi : build k = i)
    (hr : OneWordRow
      ⟨op ++ 0#12, 0xF000, fun w _ => build (fieldRel12 w)⟩) (rest : List Byte) :
    decode (encode i ++ rest) = .ok (i, rest) :=
  decode_oneWord hwords hr (encRel12_and_mask op k) (by simp only [fieldRel12_encRel12, hi]) rest

theorem encBr_and_mask (op : BitVec 1) (b : BitVec 3) (k : BitVec 7) :
    encBr op b k &&& 0xFC00 = 0b11110#5 ++ op ++ 0#7 ++ 0#3 := by
  have hmask : (0xFC00 : Word) = BitVec.allOnes 5 ++ BitVec.allOnes 1 ++ 0#7 ++ 0#3 := rfl
  rw [encBr, hmask]
  repeat rw [BitVec.and_append]
  simp only [BitVec.and_allOnes, BitVec.and_zero]

theorem fieldS_encBr (op : BitVec 1) (b : BitVec 3) (k : BitVec 7) : fieldS (encBr op b k) = b :=
  BitVec.extractLsb'_append_eq_right

theorem fieldRel7_encBr (op : BitVec 1) (b : BitVec 3) (k : BitVec 7) : fieldRel7 (encBr op b k) = k :=
  extract_skip 3 <| BitVec.extractLsb'_append_eq_right

theorem decode_encBr {op : BitVec 1} {b : BitVec 3} {k : BitVec 7} {build : BitVec 3 → BitVec 7 → Instr}
    (hwords : encodeWords i = [encBr op b k]) (hi : build b k = i)
    (hr : OneWordRow
      ⟨0b11110#5 ++ op ++ 0#7 ++ 0#3, 0xFC00, fun w _ => build (fieldS w) (fieldRel7 w)⟩) (rest : List Byte) :
    decode (encode i ++ rest) = .ok (i, rest) :=
  decode_oneWord hwords hr (encBr_and_mask op b k) (by simp only [fieldS_encBr, fieldRel7_encBr, hi]) rest

theorem encAbs22_and_mask (op : BitVec 1) (k : BitVec 22) :
    encAbs22 op k &&& 0xFE0E = 0b1001010#7 ++ 0#5 ++ 0b11#2 ++ op ++ 0#1 := by
  have hmask : (0xFE0E : Word) = BitVec.allOnes 7 ++ 0#5 ++ BitVec.allOnes 2 ++ BitVec.allOnes 1 ++ 0#1 := rfl
  rw [encAbs22, hmask]
  repeat rw [BitVec.and_append]
  simp only [BitVec.and_allOnes, BitVec.and_zero]

theorem fieldAbs22_encAbs22 (op : BitVec 1) (k : BitVec 22) : fieldAbs22 (encAbs22 op k) (k.extractLsb' 0 16) = k := by
  have hhigh : field (encAbs22 op k) 4 5 = k.extractLsb' 17 5 :=
    extract_skip 1 <| extract_skip 1 <| extract_skip 2 <| BitVec.extractLsb'_append_eq_right
  have hbit : field (encAbs22 op k) 0 1 = k.extractLsb' 16 1 := BitVec.extractLsb'_append_eq_right
  rw [fieldAbs22, hhigh, hbit, BitVec.extractLsb'_append_extractLsb'_eq_extractLsb' (by rfl)]
  exact extract_high_append_low (m := 6) (n := 16) k

theorem decode_encAbs22 {op : BitVec 1} {k : BitVec 22} {build : BitVec 22 → Instr}
    (hwords : encodeWords i = [encAbs22 op k, k.extractLsb' 0 16]) (hi : build k = i)
    (hr : TwoWordRow
      ⟨0b1001010#7 ++ 0#5 ++ 0b11#2 ++ op ++ 0#1, 0xFE0E, fun w w2 => build (fieldAbs22 w w2)⟩) (rest : List Byte) :
    decode (encode i ++ rest) = .ok (i, rest) :=
  decode_twoWords hwords hr (encAbs22_and_mask op k) (by simp only [fieldAbs22_encAbs22, hi]) rest

theorem encInd_and_mask (op : BitVec 1) (d : Reg) (m : BitVec 4) :
    encInd op d m &&& 0xFE0F = 0b100100#6 ++ op ++ 0#5 ++ m := by
  have hmask : (0xFE0F : Word) = BitVec.allOnes 6 ++ BitVec.allOnes 1 ++ 0#5 ++ BitVec.allOnes 4 := rfl
  rw [encInd, hmask]
  repeat rw [BitVec.and_append]
  simp only [BitVec.and_allOnes, BitVec.and_zero]

theorem fieldD_encInd (op : BitVec 1) (d : Reg) (m : BitVec 4) : fieldD (encInd op d m) = d :=
  extract_skip 4 <| BitVec.extractLsb'_append_eq_right

theorem decode_encInd {op : BitVec 1} {d : Reg} {m : BitVec 4} {build : Reg → Instr}
    (hwords : encodeWords i = [encInd op d m]) (hi : build d = i)
    (hr : OneWordRow
      ⟨0b100100#6 ++ op ++ 0#5 ++ m, 0xFE0F, fun w _ => build (fieldD w)⟩) (rest : List Byte) :
    decode (encode i ++ rest) = .ok (i, rest) :=
  decode_oneWord hwords hr (encInd_and_mask op d m) (by simp only [fieldD_encInd, hi]) rest

/-- LDS and STS: format LS16, whose second word is the address (R109). -/
theorem decode_encInd_twoWords {op : BitVec 1} {d : Reg} {m : BitVec 4} {k : Word} {build : Reg → Word → Instr}
    (hwords : encodeWords i = [encInd op d m, k]) (hi : build d k = i)
    (hr : TwoWordRow
      ⟨0b100100#6 ++ op ++ 0#5 ++ m, 0xFE0F, fun w w2 => build (fieldD w) w2⟩) (rest : List Byte) :
    decode (encode i ++ rest) = .ok (i, rest) :=
  decode_twoWords hwords hr (encInd_and_mask op d m) (by simp only [fieldD_encInd, hi]) rest

theorem encDisp_and_mask (op y : BitVec 1) (d : Reg) (q : BitVec 6) :
    encDisp op y d q &&& 0xD208 = 0b10#2 ++ 0#1 ++ 0b0#1 ++ 0#2 ++ op ++ 0#5 ++ y ++ 0#3 := by
  have hmask : (0xD208 : Word) = BitVec.allOnes 2 ++ 0#1 ++ BitVec.allOnes 1 ++ 0#2 ++
    BitVec.allOnes 1 ++ 0#5 ++ BitVec.allOnes 1 ++ 0#3 := rfl
  rw [encDisp, hmask]
  repeat rw [BitVec.and_append]
  simp only [BitVec.and_allOnes, BitVec.and_zero]

theorem fieldD_encDisp (op y : BitVec 1) (d : Reg) (q : BitVec 6) : fieldD (encDisp op y d q) = d :=
  extract_skip 3 <| extract_skip 1 <| BitVec.extractLsb'_append_eq_right

theorem fieldQ_encDisp (op y : BitVec 1) (d : Reg) (q : BitVec 6) : fieldQ (encDisp op y d q) = q := by
  have htop : field (encDisp op y d q) 13 1 = q.extractLsb' 5 1 :=
    extract_skip 3 <| extract_skip 1 <| extract_skip 5 <| extract_skip 1 <| extract_skip 2 <|
      extract_skip 1 <| BitVec.extractLsb'_append_eq_right
  have hmid : field (encDisp op y d q) 10 2 = q.extractLsb' 3 2 :=
    extract_skip 3 <| extract_skip 1 <| extract_skip 5 <|
      extract_skip 1 <| BitVec.extractLsb'_append_eq_right
  have hlow : field (encDisp op y d q) 0 3 = q.extractLsb' 0 3 := BitVec.extractLsb'_append_eq_right
  rw [fieldQ, htop, hmid, hlow, BitVec.extractLsb'_append_extractLsb'_eq_extractLsb' (by rfl)]
  exact extract_high_append_low (m := 3) (n := 3) q

theorem decode_encDisp {op y : BitVec 1} {d : Reg} {q : BitVec 6} {build : Reg → BitVec 6 → Instr}
    (hwords : encodeWords i = [encDisp op y d q]) (hi : build d q = i)
    (hr : OneWordRow
      ⟨0b10#2 ++ 0#1 ++ 0b0#1 ++ 0#2 ++ op ++ 0#5 ++ y ++ 0#3, 0xD208, fun w _ => build (fieldD w) (fieldQ w)⟩)
    (rest : List Byte) : decode (encode i ++ rest) = .ok (i, rest) :=
  decode_oneWord hwords hr (encDisp_and_mask op y d q) (by simp only [fieldD_encDisp, fieldQ_encDisp, hi]) rest

theorem encIo_and_mask (op : BitVec 1) (a : IoAddr) (d : Reg) :
    encIo op a d &&& 0xF800 = 0b1011#4 ++ op ++ 0#2 ++ 0#5 ++ 0#4 := by
  have hmask : (0xF800 : Word) = BitVec.allOnes 4 ++ BitVec.allOnes 1 ++ 0#2 ++ 0#5 ++ 0#4 := rfl
  rw [encIo, hmask]
  repeat rw [BitVec.and_append]
  simp only [BitVec.and_allOnes, BitVec.and_zero]

theorem fieldD_encIo (op : BitVec 1) (a : IoAddr) (d : Reg) : fieldD (encIo op a d) = d :=
  extract_skip 4 <| BitVec.extractLsb'_append_eq_right

theorem fieldA_encIo (op : BitVec 1) (a : IoAddr) (d : Reg) : fieldA (encIo op a d) = a := by
  have hhigh : field (encIo op a d) 9 2 = a.extractLsb' 4 2 :=
    extract_skip 4 <| extract_skip 5 <| BitVec.extractLsb'_append_eq_right
  have hlow : field (encIo op a d) 0 4 = a.extractLsb' 0 4 := BitVec.extractLsb'_append_eq_right
  rw [fieldA, hhigh, hlow]
  exact extract_high_append_low (m := 2) (n := 4) a

theorem decode_encIo {op : BitVec 1} {a : IoAddr} {d : Reg} {build : Reg → IoAddr → Instr}
    (hwords : encodeWords i = [encIo op a d]) (hi : build d a = i)
    (hr : OneWordRow
      ⟨0b1011#4 ++ op ++ 0#2 ++ 0#5 ++ 0#4, 0xF800, fun w _ => build (fieldD w) (fieldA w)⟩) (rest : List Byte) :
    decode (encode i ++ rest) = .ok (i, rest) :=
  decode_oneWord hwords hr (encIo_and_mask op a d) (by simp only [fieldD_encIo, fieldA_encIo, hi]) rest

/-- The forms without operands: every bit of the word is fixed. -/
theorem decode_fixedWord {w : Word} (hwords : encodeWords i = [w]) (hr : OneWordRow ⟨w, 0xFFFF, fun _ _ => i⟩)
    (rest : List Byte) : decode (encode i ++ rest) = .ok (i, rest) :=
  decode_oneWord hwords hr BitVec.and_allOnes rfl rest

end

/-! ### Every instruction -/

/-- Every form that is no second spelling decodes to itself (R117). -/
theorem decode_encode_base {i : Instr} (hi : i.core = i) (rest : List Byte) :
    decode (encode i ++ rest) = .ok (i, rest) := by
  cases i with
  | add | adc | sub | sbc | and | or | eor =>
    exact decode_encRR rfl rfl ⟨mem_rows_of_arithLogic (by simp [rowsArithLogic]), by decide⟩ rest
  | subi | sbci | andi | ori =>
    exact decode_encRI rfl rfl ⟨mem_rows_of_arithLogic (by simp [rowsArithLogic]), by decide⟩ rest
  | inc | dec | neg | com =>
    exact decode_encR1 rfl rfl ⟨mem_rows_of_arithLogic (by simp [rowsArithLogic]), by decide⟩ rest
  | rjmp | rcall => exact decode_encRel12 rfl rfl ⟨mem_rows_of_control (by simp [rowsControl]), by decide⟩ rest
  | jmp | call => exact decode_encAbs22 rfl rfl ⟨mem_rows_of_control (by simp [rowsControl]), by decide⟩ rest
  | ret | reti => exact decode_fixedWord rfl ⟨mem_rows_of_control (by simp [rowsControl]), by decide⟩ rest
  | cp | cpc => exact decode_encRR rfl rfl ⟨mem_rows_of_control (by simp [rowsControl]), by decide⟩ rest
  | cpi => exact decode_encRI rfl rfl ⟨mem_rows_of_control (by simp [rowsControl]), by decide⟩ rest
  | brbs | brbc => exact decode_encBr rfl rfl ⟨mem_rows_of_control (by simp [rowsControl]), by decide⟩ rest
  | mov => exact decode_encRR rfl rfl ⟨mem_rows_of_transfer (by simp [rowsTransfer]), by decide⟩ rest
  | ldi => exact decode_encRI rfl rfl ⟨mem_rows_of_transfer (by simp [rowsTransfer]), by decide⟩ rest
  | lds | sts =>
    exact decode_encInd_twoWords rfl (by rfl) ⟨mem_rows_of_transfer (by simp [rowsTransfer]), by decide⟩ rest
  | ldX | ldXInc | ldXDec | ldYInc | ldYDec | ldZInc | ldZDec | stX | stXInc | stXDec | stYInc | stYDec | stZInc
  | stZDec | push | pop =>
    exact decode_encInd rfl rfl ⟨mem_rows_of_transfer (by simp [rowsTransfer]), by decide⟩ rest
  | lddY | lddZ | stdY | stdZ =>
    exact decode_encDisp rfl (by rfl) ⟨mem_rows_of_transfer (by simp [rowsTransfer]), by decide⟩ rest
  | ioIn | ioOut => exact decode_encIo rfl (by rfl) ⟨mem_rows_of_transfer (by simp [rowsTransfer]), by decide⟩ rest
  | lsr | ror | asr => exact decode_encR1 rfl rfl ⟨mem_rows_of_shift (by simp [rowsShift]), by decide⟩ rest
  | nop | sei | cli => exact decode_fixedWord rfl ⟨mem_rows_of_misc (by simp [rowsMisc]), by decide⟩ rest
  | lpm | lpmInc => exact decode_encInd rfl rfl ⟨mem_rows_of_misc (by simp [rowsMisc]), by decide⟩ rest
  | clr | ser | tst | breq | brne | brcs | brcc | brsh | brlo | ldY | ldZ | stY | stZ | lsl | rol => cases hi

/-- A second spelling has the words of the form it stands for (R116). -/
theorem encode_core (i : Instr) : encode i.core = encode i := by cases i <;> rfl

theorem core_core (i : Instr) : i.core.core = i.core := by cases i <;> rfl

theorem decode_encode (i : Instr) (rest : List Byte) : decode (encode i ++ rest) = .ok (i.core, rest) := by
  rw [← encode_core]
  exact decode_encode_base (core_core i) rest

/-- An instruction is one word, or it is two (R100). -/
theorem encodeWords_cases (i : Instr) :
    (∃ w, encodeWords i = [w] ∧ i.words = 1) ∨ ∃ w w2, encodeWords i = [w, w2] ∧ i.words = 2 := by
  cases i with
  | jmp | call | lds | sts => exact .inr ⟨_, _, rfl, rfl⟩
  | _ => exact .inl ⟨_, rfl, rfl⟩

theorem Config.flashWords_le {c : Config} (h : c.wf = true) : c.pcBits ≤ 16 ∧ c.flashWords ≤ 2 ^ c.pcBits := by
  simp only [Config.wf, Bool.and_eq_true, decide_eq_true_eq] at h
  obtain ⟨⟨⟨⟨⟨⟨⟨⟨hbits, -⟩, hflash⟩, -⟩, -⟩, -⟩, -⟩, -⟩, -⟩ := h
  exact ⟨hbits, hflash⟩

end Sys2Proof

namespace Sys2Proof.Machine

/-! ### The instruction at the program counter -/

section
variable {s : State} {i : Instr}

theorem fetch_of_decode {rest : List Byte} (hpc : s.pc.toNat < s.cfg.flashWords)
    (hdecode : decode (fetchBytes s) = .ok (i, rest)) : fetch s = .next i := by
  simp only [fetch, inFlash_eq_true hpc, if_true, hdecode]

/-- Where no interrupt is due, the step is the meaning of what the fetch answers (R305). -/
theorem step_of_fetch (hdue : s.dueInterrupt = none) (hfetch : fetch s = .next i) : step s = exec i s.enterInstr := by
  rw [step, hdue, hfetch]
  rfl

/-- Below the last word of program memory the second word is the next one: nothing wraps (R27). -/
theorem secondPc_eq (hwf : s.cfg.wf = true) (h : s.pc.toNat + 1 < s.cfg.flashWords) :
    s.secondPc = s.pc + 1 ∧ s.secondPc.toNat = s.pc.toNat + 1 := by
  obtain ⟨hbits, hflash⟩ := s.cfg.flashWords_le hwf
  have hword : 2 ^ s.cfg.pcBits ≤ 2 ^ 16 := Nat.pow_le_pow_right (by decide) hbits
  have hnext : (s.pc + 1).toNat = s.pc.toNat + 1 := by bv_omega
  have hsecond : s.secondPc.toNat = s.pc.toNat + 1 := by
    rw [State.secondPc, wrapPc_toNat _ _ hbits, hnext, Nat.mod_eq_of_lt (by omega)]
  exact ⟨BitVec.eq_of_toNat_eq (hsecond.trans hnext.symm), hsecond⟩

/-- Where the words of `i` stand from pc on, the bytes at pc begin with the bytes of `i` (R67, R68). -/
theorem fetchBytes_of_placed (hwf : s.cfg.wf = true) (hroom : s.pc.toNat + i.words ≤ s.cfg.flashWords)
    (hplaced : ∀ n w, (encodeWords i)[n]? = some w → s.rawFlashWord (s.pc + BitVec.ofNat 16 n) = w) :
    ∃ rest, fetchBytes s = encode i ++ rest := by
  rcases encodeWords_cases i with ⟨w, hwords, -⟩ | ⟨w, w2, hwords, hlength⟩
  · have hfirst : s.rawFlashWord s.pc = w := by simpa using hplaced 0 w (by simp [hwords])
    rw [encode_oneWord hwords, ← hfirst]
    exact ⟨_, rfl⟩
  · have hfirst : s.rawFlashWord s.pc = w := by simpa using hplaced 0 w (by simp [hwords])
    have hsecond : s.rawFlashWord (s.pc + 1) = w2 := hplaced 1 w2 (by simp [hwords])
    obtain ⟨hpc, hnext⟩ := secondPc_eq hwf (by omega)
    have hin : s.inFlash s.secondPc = true := inFlash_eq_true (by omega)
    refine ⟨[], ?_⟩
    rw [fetchBytes, hin, if_pos rfl, hpc, hfirst, hsecond, encode_twoWords hwords, List.append_nil]

end

/-- Settles O7: the bytes at pc begin with those of `i`, and these decode to its core form whatever follows them. -/
theorem placedInstructionIsTheOneRun : Obligations.PlacedInstructionIsTheOneRun := by
  intro s i hwf hdue hroom hplaced
  obtain ⟨rest, hbytes⟩ := fetchBytes_of_placed hwf hroom hplaced
  have hdecode : decode (fetchBytes s) = .ok (i.core, rest) := hbytes ▸ decode_encode i rest
  have hpc : s.pc.toNat < s.cfg.flashWords := by
    have hpos := words_one_or_two i
    omega
  exact step_of_fetch hdue (fetch_of_decode hpc hdecode)

end Sys2Proof.Machine
end

section
/-! The round trips of the decoder and the encoder (O1, O2), the one row of a word (O3), the length test (O5), and sample
words (O4).  Encoding after decoding goes format by format: a word is its fields side by side, the fields under the mask are
the fixed ones of the row, and the others are the operands.  The length test then needs no case split of its own: the
decoder, which applies it, leaves exactly the bytes after the instruction. -/

namespace Sys2Proof

/-- Settles O1. -/
theorem decodeOfEncodeGivesTheCoreForm : Obligations.DecodeOfEncodeGivesTheCoreForm := decode_encode

/-- Settles O3: no two rows match one word, so the rows that match it have no two members. -/
theorem atMostOneRowMatches : Obligations.AtMostOneRowMatches := by
  intro w
  have hnoPair : (rows.filter (Row.hits w)).Pairwise fun _ _ => False :=
    List.pairwise_filter.mpr <| rows_apart.imp fun hapart hx hy =>
      ne_of_patternsApart hapart (beq_iff_eq.mp hx) (beq_iff_eq.mp hy)
  generalize rows.filter (Row.hits w) = found at hnoPair
  match found with
  | [] | [_] => simp
  | x :: y :: _ => exact ((List.pairwise_cons.mp hnoPair).1 y (by simp)).elim

/-! ### What the decoder has read where it answers -/

theorem of_rowOf_eq_some {w : Word} {r : Row} (h : rowOf w = some r) : r ∈ rows ∧ w &&& r.mask = r.pattern := by
  have hhits : Row.hits w r = true := List.find?_some h
  exact ⟨List.mem_of_find?_eq_some h, beq_iff_eq.mp hhits⟩

theorem bytesOfWord_wordOfBytes (lo hi : Byte) : bytesOfWord (wordOfBytes lo hi) = [lo, hi] := by
  rw [bytesOfWord, wordOfBytes, BitVec.extractLsb'_append_eq_right, BitVec.extractLsb'_append_eq_left]

theorem bytesOfWord_injective : Function.Injective bytesOfWord := by
  intro w v h
  obtain ⟨hlo, hhi⟩ : w.extractLsb' 0 8 = v.extractLsb' 0 8 ∧ w.extractLsb' 8 8 = v.extractLsb' 8 8 := by
    simpa [bytesOfWord] using h
  rw [← Machine.wordOfBytes_extractLsb' w, ← Machine.wordOfBytes_extractLsb' v, hlo, hhi]

/-- The decoder answers what the row of the first word builds, after as many words as the length test says (R114). -/
theorem decode_eq_ok {bs rest : List Byte} {i : Instr} (h : decode bs = .ok (i, rest)) :
    ∃ w w2 r, rowOf w = some r ∧ r.build w w2 = i ∧
      (isTwoWord w = false ∧ bs = bytesOfWord w ++ rest ∨
        isTwoWord w = true ∧ bs = bytesOfWord w ++ bytesOfWord w2 ++ rest) := by
  match bs with
  | [] | [_] => cases h
  | lo :: hi :: tail =>
    rw [decode] at h
    split at h
    · cases h
    · next r hrow =>
      split at h
      · next htwo =>
        match tail with
        | [] | [_] => cases h
        | lo2 :: hi2 :: _ =>
          cases h
          exact ⟨_, wordOfBytes lo2 hi2, r, hrow, rfl, .inr ⟨htwo, by simp [bytesOfWord_wordOfBytes]⟩⟩
      · next hone =>
        cases h
        exact ⟨_, 0, r, hrow, rfl, .inl ⟨Bool.eq_false_iff.mpr hone, by simp [bytesOfWord_wordOfBytes]⟩⟩

/-! ### The length test -/

section
variable {i : Instr} {w w2 : Word}

/-- The decoder reads a one-word instruction to its end and so has not asked for a second word. -/
theorem isTwoWord_of_oneWord (hwords : encodeWords i = [w]) : isTwoWord w = false := by
  obtain ⟨v, v2, -, -, -, ⟨hone, hbytes⟩ | ⟨-, hbytes⟩⟩ := decode_eq_ok (decode_encode i [])
  · rw [encode_oneWord hwords, List.append_left_inj] at hbytes
    rwa [bytesOfWord_injective hbytes]
  · rw [encode_oneWord hwords] at hbytes
    simpa [bytesOfWord] using congrArg List.length hbytes

/-- The decoder leaves nothing of a two-word instruction and so has asked for the second word. -/
theorem isTwoWord_of_twoWords (hwords : encodeWords i = [w, w2]) : isTwoWord w = true := by
  obtain ⟨v, v2, -, -, -, ⟨-, hbytes⟩ | ⟨htwo, hbytes⟩⟩ := decode_eq_ok (decode_encode i [])
  · rw [encode_twoWords hwords] at hbytes
    simpa [bytesOfWord] using congrArg List.length hbytes
  · rw [encode_twoWords hwords, List.append_left_inj] at hbytes
    obtain ⟨hfirst, -⟩ := List.append_inj hbytes rfl
    rwa [bytesOfWord_injective hfirst]

end

/-- Settles O5: the length test on the first word, for a form of one word and for one of two. -/
theorem lengthTestGivesTheLength : Obligations.LengthTestGivesTheLength := by
  intro i w hhead
  simp only [← Machine.isTwoWord_iff]
  rcases encodeWords_cases i with ⟨v, hwords, hlength⟩ | ⟨v, v2, hwords, hlength⟩
  · obtain rfl : v = w := by simpa [hwords] using hhead
    simp [hwords, hlength, isTwoWord_of_oneWord hwords]
  · obtain rfl : v = w := by simpa [hwords] using hhead
    simp [hwords, hlength, isTwoWord_of_twoWords hwords]

/-! ### A word is its fields side by side

For each format of R103 to R112: the format's word, written from the fields of a word that has the fixed bits of the
format's rows, is that word. -/

/-- Two neighbouring fields are one field. -/
theorem append_eq_field {w : Word} {start lo m n : Nat} {x : BitVec m} {y : BitVec n} (hx : x = field w start m)
    (hy : y = field w lo n) (hstart : start = lo + n := by rfl) : x ++ y = field w lo (m + n) := by
  rw [hx, hy, BitVec.extractLsb'_append_extractLsb'_eq_extractLsb' hstart]

theorem field_whole (w : Word) : field w 0 16 = w := BitVec.extractLsb'_eq_self

/-- A field whose bits are all under a row's mask is the one of the row's pattern. -/
theorem fixed_eq_field {w m p : Word} {lo len : Nat} {x : BitVec len} (hw : w &&& m = p) (hp : field p lo len = x)
    (hm : field m lo len = BitVec.allOnes len := by rfl) : x = field w lo len := by
  have hsplit : field (w &&& m) lo len = field w lo len &&& field m lo len := BitVec.extractLsb'_and
  rw [← hp, ← hw, hsplit, hm, BitVec.and_allOnes]

section
variable {w : Word}

theorem encRR_fields {op : BitVec 6} (hw : w &&& 0xFC00 = op ++ 0#1 ++ 0#5 ++ 0#4) :
    encRR op (fieldD w) (fieldR w) = w := by
  have hop : op = field w 10 6 :=
    fixed_eq_field hw (extract_skip 4 <| extract_skip 5 <| BitVec.extractLsb'_append_eq_left)
  have hhigh : (fieldR w).extractLsb' 4 1 = field w 9 1 := BitVec.extractLsb'_append_eq_left
  have hd : fieldD w = field w 4 5 := rfl
  have hlow : (fieldR w).extractLsb' 0 4 = field w 0 4 := BitVec.extractLsb'_append_eq_right
  exact (append_eq_field (append_eq_field (append_eq_field hop hhigh) hd) hlow).trans (field_whole w)

theorem encRI_fields {op : BitVec 4} (hw : w &&& 0xF000 = op ++ 0#4 ++ 0#4 ++ 0#4) :
    encRI op (fieldHigh w) (fieldK w) = w := by
  have hop : op = field w 12 4 :=
    fixed_eq_field hw (extract_skip 4 <| extract_skip 4 <| BitVec.extractLsb'_append_eq_left)
  have hhigh : (fieldK w).extractLsb' 4 4 = field w 8 4 := BitVec.extractLsb'_append_eq_left
  have hd : fieldHigh w = field w 4 4 := rfl
  have hlow : (fieldK w).extractLsb' 0 4 = field w 0 4 := BitVec.extractLsb'_append_eq_right
  exact (append_eq_field (append_eq_field (append_eq_field hop hhigh) hd) hlow).trans (field_whole w)

theorem encR1_fields {op : BitVec 4} (hw : w &&& 0xFE0F = 0b1001010#7 ++ 0#5 ++ op) :
    encR1 op (fieldD w) = w := by
  have htop : 0b1001010#7 = field w 9 7 := fixed_eq_field hw (extract_skip 4 <| BitVec.extractLsb'_append_eq_left)
  have hd : fieldD w = field w 4 5 := rfl
  have hop : op = field w 0 4 := fixed_eq_field hw BitVec.extractLsb'_append_eq_right
  exact (append_eq_field (append_eq_field htop hd) hop).trans (field_whole w)

theorem encRel12_fields {op : BitVec 4} (hw : w &&& 0xF000 = op ++ 0#12) : encRel12 op (fieldRel12 w) = w := by
  have hop : op = field w 12 4 := fixed_eq_field hw BitVec.extractLsb'_append_eq_left
  have hk : fieldRel12 w = field w 0 12 := rfl
  exact (append_eq_field hop hk).trans (field_whole w)

theorem encBr_fields {op : BitVec 1} (hw : w &&& 0xFC00 = 0b11110#5 ++ op ++ 0#7 ++ 0#3) :
    encBr op (fieldS w) (fieldRel7 w) = w := by
  have htop : 0b11110#5 = field w 11 5 :=
    fixed_eq_field hw (extract_skip 3 <| extract_skip 7 <| BitVec.extractLsb'_append_eq_left)
  have hop : op = field w 10 1 :=
    fixed_eq_field hw (extract_skip 3 <| extract_skip 7 <| BitVec.extractLsb'_append_eq_right)
  have hk : fieldRel7 w = field w 3 7 := rfl
  have hs : fieldS w = field w 0 3 := rfl
  exact (append_eq_field (append_eq_field (append_eq_field htop hop) hk) hs).trans (field_whole w)

theorem encAbs22_fields {w2 : Word} {op : BitVec 1}
    (hw : w &&& 0xFE0E = 0b1001010#7 ++ 0#5 ++ 0b11#2 ++ op ++ 0#1) : encAbs22 op (fieldAbs22 w w2) = w := by
  have htop : 0b1001010#7 = field w 9 7 :=
    fixed_eq_field hw (extract_skip 1 <| extract_skip 1 <| extract_skip 2 <| BitVec.extractLsb'_append_eq_left)
  have hhigh : (fieldAbs22 w w2).extractLsb' 17 5 = field w 4 5 :=
    extract_skip 16 <| BitVec.extractLsb'_append_eq_left
  have hmid : 0b11#2 = field w 2 2 :=
    fixed_eq_field hw (extract_skip 1 <| extract_skip 1 <| BitVec.extractLsb'_append_eq_right)
  have hop : op = field w 1 1 := fixed_eq_field hw (extract_skip 1 <| BitVec.extractLsb'_append_eq_right)
  have hbit : (fieldAbs22 w w2).extractLsb' 16 1 = field w 0 1 :=
    extract_skip 16 <| BitVec.extractLsb'_append_eq_right
  exact (append_eq_field (append_eq_field (append_eq_field (append_eq_field htop hhigh) hmid) hop) hbit).trans
    (field_whole w)

theorem encInd_fields {op : BitVec 1} {m : BitVec 4} (hw : w &&& 0xFE0F = 0b100100#6 ++ op ++ 0#5 ++ m) :
    encInd op (fieldD w) m = w := by
  have htop : 0b100100#6 = field w 10 6 :=
    fixed_eq_field hw (extract_skip 4 <| extract_skip 5 <| BitVec.extractLsb'_append_eq_left)
  have hop : op = field w 9 1 :=
    fixed_eq_field hw (extract_skip 4 <| extract_skip 5 <| BitVec.extractLsb'_append_eq_right)
  have hd : fieldD w = field w 4 5 := rfl
  have hm : m = field w 0 4 := fixed_eq_field hw BitVec.extractLsb'_append_eq_right
  exact (append_eq_field (append_eq_field (append_eq_field htop hop) hd) hm).trans (field_whole w)

theorem encDisp_fields {op y : BitVec 1}
    (hw : w &&& 0xD208 = 0b10#2 ++ 0#1 ++ 0b0#1 ++ 0#2 ++ op ++ 0#5 ++ y ++ 0#3) :
    encDisp op y (fieldD w) (fieldQ w) = w := by
  have htop : 0b10#2 = field w 14 2 :=
    fixed_eq_field hw (extract_skip 3 <| extract_skip 1 <| extract_skip 5 <| extract_skip 1 <| extract_skip 2 <|
      extract_skip 1 <| BitVec.extractLsb'_append_eq_left)
  have hqTop : (fieldQ w).extractLsb' 5 1 = field w 13 1 := extract_skip 3 <| BitVec.extractLsb'_append_eq_left
  have hzero : 0b0#1 = field w 12 1 :=
    fixed_eq_field hw (extract_skip 3 <| extract_skip 1 <| extract_skip 5 <| extract_skip 1 <| extract_skip 2 <|
      BitVec.extractLsb'_append_eq_right)
  have hqMid : (fieldQ w).extractLsb' 3 2 = field w 10 2 := extract_skip 3 <| BitVec.extractLsb'_append_eq_right
  have hop : op = field w 9 1 :=
    fixed_eq_field hw (extract_skip 3 <| extract_skip 1 <| extract_skip 5 <| BitVec.extractLsb'_append_eq_right)
  have hd : fieldD w = field w 4 5 := rfl
  have hy : y = field w 3 1 := fixed_eq_field hw (extract_skip 3 <| BitVec.extractLsb'_append_eq_right)
  have hqLow : (fieldQ w).extractLsb' 0 3 = field w 0 3 := BitVec.extractLsb'_append_eq_right
  have hupper := append_eq_field (append_eq_field (append_eq_field htop hqTop) hzero) hqMid
  exact (append_eq_field (append_eq_field (append_eq_field (append_eq_field hupper hop) hd) hy) hqLow).trans
    (field_whole w)

theorem encIo_fields {op : BitVec 1} (hw : w &&& 0xF800 = 0b1011#4 ++ op ++ 0#2 ++ 0#5 ++ 0#4) :
    encIo op (fieldA w) (fieldD w) = w := by
  have htop : 0b1011#4 = field w 12 4 :=
    fixed_eq_field hw (extract_skip 4 <| extract_skip 5 <| extract_skip 2 <| BitVec.extractLsb'_append_eq_left)
  have hop : op = field w 11 1 :=
    fixed_eq_field hw (extract_skip 4 <| extract_skip 5 <| extract_skip 2 <| BitVec.extractLsb'_append_eq_right)
  have hhigh : (fieldA w).extractLsb' 4 2 = field w 9 2 := BitVec.extractLsb'_append_eq_left
  have hd : fieldD w = field w 4 5 := rfl
  have hlow : (fieldA w).extractLsb' 0 4 = field w 0 4 := BitVec.extractLsb'_append_eq_right
  exact (append_eq_field (append_eq_field (append_eq_field (append_eq_field htop hop) hhigh) hd) hlow).trans
    (field_whole w)

end

/-! ### The words of what a row builds -/

/-- The words of an instruction that the row builds are the words it was built from, one or both. -/
def Row.KeepsWords (r : Row) : Prop :=
  ∀ w w2, w &&& r.mask = r.pattern → encodeWords (r.build w w2) = [w] ∨ encodeWords (r.build w w2) = [w, w2]

theorem keepsWords_encRR (op : BitVec 6) (build : Reg → Reg → Instr)
    (hwords : ∀ d r, encodeWords (build d r) = [encRR op d r] := by intros; rfl) :
    Row.KeepsWords ⟨op ++ 0#1 ++ 0#5 ++ 0#4, 0xFC00, fun w _ => build (fieldD w) (fieldR w)⟩ :=
  fun w _ hw => .inl (by rw [hwords, encRR_fields hw])

theorem keepsWords_encRI (op : BitVec 4) (build : HighReg → Byte → Instr)
    (hwords : ∀ d k, encodeWords (build d k) = [encRI op d k] := by intros; rfl) :
    Row.KeepsWords ⟨op ++ 0#4 ++ 0#4 ++ 0#4, 0xF000, fun w _ => build (fieldHigh w) (fieldK w)⟩ :=
  fun w _ hw => .inl (by rw [hwords, encRI_fields hw])

theorem keepsWords_encR1 (op : BitVec 4) (build : Reg → Instr)
    (hwords : ∀ d, encodeWords (build d) = [encR1 op d] := by intros; rfl) :
    Row.KeepsWords ⟨0b1001010#7 ++ 0#5 ++ op, 0xFE0F, fun w _ => build (fieldD w)⟩ :=
  fun w _ hw => .inl (by rw [hwords, encR1_fields hw])

theorem keepsWords_encRel12 (op : BitVec 4) (build : BitVec 12 → Instr)
    (hwords : ∀ k, encodeWords (build k) = [encRel12 op k] := by intros; rfl) :
    Row.KeepsWords ⟨op ++ 0#12, 0xF000, fun w _ => build (fieldRel12 w)⟩ :=
  fun w _ hw => .inl (by rw [hwords, encRel12_fields hw])

theorem keepsWords_encBr (op : BitVec 1) (build : BitVec 3 → BitVec 7 → Instr)
    (hwords : ∀ b k, encodeWords (build b k) = [encBr op b k] := by intros; rfl) :
    Row.KeepsWords ⟨0b11110#5 ++ op ++ 0#7 ++ 0#3, 0xFC00, fun w _ => build (fieldS w) (fieldRel7 w)⟩ :=
  fun w _ hw => .inl (by rw [hwords, encBr_fields hw])

theorem keepsWords_encAbs22 (op : BitVec 1) (build : BitVec 22 → Instr)
    (hwords : ∀ k, encodeWords (build k) = [encAbs22 op k, k.extractLsb' 0 16] := by intros; rfl) :
    Row.KeepsWords
      ⟨0b1001010#7 ++ 0#5 ++ 0b11#2 ++ op ++ 0#1, 0xFE0E, fun w w2 => build (fieldAbs22 w w2)⟩ := by
  intro w w2 hw
  have hsecond : (fieldAbs22 w w2).extractLsb' 0 16 = w2 := BitVec.extractLsb'_append_eq_right
  exact .inr (by rw [hwords, encAbs22_fields hw, hsecond])

theorem keepsWords_encInd (op : BitVec 1) (m : BitVec 4) (build : Reg → Instr)
    (hwords : ∀ d, encodeWords (build d) = [encInd op d m] := by intros; rfl) :
    Row.KeepsWords ⟨0b100100#6 ++ op ++ 0#5 ++ m, 0xFE0F, fun w _ => build (fieldD w)⟩ :=
  fun w _ hw => .inl (by rw [hwords, encInd_fields hw])

/-- LDS and STS, whose second word is the address (R109). -/
theorem keepsWords_encInd_twoWords (op : BitVec 1) (m : BitVec 4) (build : Reg → Word → Instr)
    (hwords : ∀ d k, encodeWords (build d k) = [encInd op d m, k] := by intros; rfl) :
    Row.KeepsWords ⟨0b100100#6 ++ op ++ 0#5 ++ m, 0xFE0F, fun w w2 => build (fieldD w) w2⟩ :=
  fun w w2 hw => .inr (by rw [hwords, encInd_fields hw])

theorem keepsWords_encDisp (op y : BitVec 1) (build : Reg → BitVec 6 → Instr)
    (hwords : ∀ d q, encodeWords (build d q) = [encDisp op y d q] := by intros; rfl) :
    Row.KeepsWords ⟨0b10#2 ++ 0#1 ++ 0b0#1 ++ 0#2 ++ op ++ 0#5 ++ y ++ 0#3, 0xD208,
      fun w _ => build (fieldD w) (fieldQ w)⟩ :=
  fun w _ hw => .inl (by rw [hwords, encDisp_fields hw])

theorem keepsWords_encIo (op : BitVec 1) (build : Reg → IoAddr → Instr)
    (hwords : ∀ d a, encodeWords (build d a) = [encIo op a d] := by intros; rfl) :
    Row.KeepsWords ⟨0b1011#4 ++ op ++ 0#2 ++ 0#5 ++ 0#4, 0xF800, fun w _ => build (fieldD w) (fieldA w)⟩ :=
  fun w _ hw => .inl (by rw [hwords, encIo_fields hw])

/-- The forms without operands: every bit of the word is fixed. -/
theorem keepsWords_fixedWord (p : Word) (i : Instr) (hwords : encodeWords i = [p] := by rfl) :
    Row.KeepsWords ⟨p, 0xFFFF, fun _ _ => i⟩ :=
  fun w _ hw => by
    have hp : p = w := hw.symm.trans BitVec.and_allOnes
    exact .inl (hp ▸ hwords)

theorem rowsArithLogic_keepWords : ∀ r ∈ rowsArithLogic, r.KeepsWords := by
  simp only [rowsArithLogic, List.forall_mem_cons, List.not_mem_nil, false_imp_iff, implies_true, and_true]
  exact ⟨keepsWords_encRR 0b000011 .add, keepsWords_encRR 0b000111 .adc, keepsWords_encRR 0b000110 .sub,
    keepsWords_encRI 0b0101 .subi, keepsWords_encRR 0b000010 .sbc, keepsWords_encRI 0b0100 .sbci,
    keepsWords_encR1 0b0011 .inc, keepsWords_encR1 0b1010 .dec, keepsWords_encR1 0b0001 .neg,
    keepsWords_encRR 0b001000 .and, keepsWords_encRI 0b0111 .andi, keepsWords_encRR 0b001010 .or,
    keepsWords_encRI 0b0110 .ori, keepsWords_encRR 0b001001 .eor, keepsWords_encR1 0b0000 .com⟩

theorem rowsControl_keepWords : ∀ r ∈ rowsControl, r.KeepsWords := by
  simp only [rowsControl, List.forall_mem_cons, List.not_mem_nil, false_imp_iff, implies_true, and_true]
  exact ⟨keepsWords_encRel12 0b1100 .rjmp, keepsWords_encAbs22 0 .jmp, keepsWords_encRel12 0b1101 .rcall,
    keepsWords_encAbs22 1 .call, keepsWords_fixedWord 0x9508 .ret, keepsWords_fixedWord 0x9518 .reti,
    keepsWords_encRR 0b000101 .cp, keepsWords_encRR 0b000001 .cpc, keepsWords_encRI 0b0011 .cpi,
    keepsWords_encBr 0 .brbs, keepsWords_encBr 1 .brbc⟩

theorem rowsTransfer_keepWords : ∀ r ∈ rowsTransfer, r.KeepsWords := by
  simp only [rowsTransfer, List.forall_mem_cons, List.not_mem_nil, false_imp_iff, implies_true, and_true]
  exact ⟨keepsWords_encRR 0b001011 .mov, keepsWords_encRI 0b1110 .ldi, keepsWords_encInd_twoWords 0 0b0000 .lds,
    keepsWords_encInd 0 0b1100 .ldX, keepsWords_encInd 0 0b1101 .ldXInc, keepsWords_encInd 0 0b1110 .ldXDec,
    keepsWords_encInd 0 0b1001 .ldYInc, keepsWords_encInd 0 0b1010 .ldYDec, keepsWords_encDisp 0 1 .lddY,
    keepsWords_encInd 0 0b0001 .ldZInc, keepsWords_encInd 0 0b0010 .ldZDec, keepsWords_encDisp 0 0 .lddZ,
    keepsWords_encInd_twoWords 1 0b0000 fun d k => .sts k d, keepsWords_encInd 1 0b1100 .stX,
    keepsWords_encInd 1 0b1101 .stXInc, keepsWords_encInd 1 0b1110 .stXDec, keepsWords_encInd 1 0b1001 .stYInc,
    keepsWords_encInd 1 0b1010 .stYDec, keepsWords_encDisp 1 1 fun d q => .stdY q d,
    keepsWords_encInd 1 0b0001 .stZInc, keepsWords_encInd 1 0b0010 .stZDec,
    keepsWords_encDisp 1 0 fun d q => .stdZ q d, keepsWords_encIo 0 .ioIn, keepsWords_encIo 1 fun d a => .ioOut a d,
    keepsWords_encInd 1 0b1111 .push, keepsWords_encInd 0 0b1111 .pop⟩

theorem rowsShift_keepWords : ∀ r ∈ rowsShift, r.KeepsWords := by
  simp only [rowsShift, List.forall_mem_cons, List.not_mem_nil, false_imp_iff, implies_true, and_true]
  exact ⟨keepsWords_encR1 0b0110 .lsr, keepsWords_encR1 0b0111 .ror, keepsWords_encR1 0b0101 .asr⟩

theorem rowsMisc_keepWords : ∀ r ∈ rowsMisc, r.KeepsWords := by
  simp only [rowsMisc, List.forall_mem_cons, List.not_mem_nil, false_imp_iff, implies_true, and_true]
  exact ⟨keepsWords_fixedWord 0x0000 .nop, keepsWords_fixedWord 0x9478 .sei, keepsWords_fixedWord 0x94F8 .cli,
    keepsWords_encInd 0 0b0100 .lpm, keepsWords_encInd 0 0b0101 .lpmInc⟩

theorem rows_keepWords : ∀ r ∈ rows, r.KeepsWords := by
  simp only [rows, List.forall_mem_append]
  exact ⟨⟨⟨⟨rowsArithLogic_keepWords, rowsControl_keepWords⟩, rowsTransfer_keepWords⟩, rowsShift_keepWords⟩,
    rowsMisc_keepWords⟩

/-! ### Encoding what was decoded -/

theorem eq_encode_of_decode {bs rest : List Byte} {i : Instr} (h : decode bs = .ok (i, rest)) :
    bs = encode i ++ rest := by
  obtain ⟨w, w2, r, hrow, rfl, hread⟩ := decode_eq_ok h
  obtain ⟨hmem, hw⟩ := of_rowOf_eq_some hrow
  rcases rows_keepWords r hmem w w2 hw with hone | htwo
  · simpa [encode_oneWord hone, isTwoWord_of_oneWord hone] using hread
  · simpa [encode_twoWords htwo, isTwoWord_of_twoWords htwo] using hread

/-- Settles O2: with the bytes known, the other round trip says that the decoder answers the core form. -/
theorem encodeOfDecodeGivesTheBytes : Obligations.EncodeOfDecodeGivesTheBytes := by
  intro bs rest i h
  have hbytes := eq_encode_of_decode h
  have hsame : Except.ok (i.core, rest) = .ok (i, rest) := (decode_encode i rest).symm.trans (hbytes ▸ h)
  obtain ⟨hcore, -⟩ := Prod.mk.inj (Except.ok.inj hsame)
  exact ⟨hbytes, hcore⟩

/-- Settles O4: bit for bit, the nine are the words of the nine forms (R115). -/
theorem sampleWordsDecode : Obligations.SampleWordsDecode := by
  have hback : (-3 : BitVec 7) = 0b1111101 := by decide
  rw [Obligations.SampleWordsDecode, hback]
  exact ⟨decode_encode (.add 16 17) [], decode_encode (.subi 0 0xFF) [], decode_encode (.brbs 1 0b1111101) [],
    decode_encode (.call 0x0ABC) [], decode_encode (.sts 0x0123 2) [], decode_encode (.stdZ 63 1) [],
    decode_encode (.ioOut 0x3D 16) [], decode_encode (.asr 6) [], decode_encode (.lpmInc 24) []⟩

end Sys2Proof
end

section
/-! The second spellings (O29) and the refused targets of JMP and CALL (O24).  The meaning of a form is that of its core
form; only CLR, TST and the forms without a displacement need an argument for it. -/

namespace Sys2Proof.Machine

/-! ### The meanings of the second spellings -/

section
variable (p : Pointer) (d : Reg) (s : State)

/-- EOR of a register with itself gives 0 (R154, R156). -/
theorem exec_eor_self : exec (.eor d d) s = exec (.clr d) s :=
  calc exec (.eor d d) s
    _ = logicInto d (s.reg d ^^^ s.reg d) s := rfl
    _ = logicInto d 0x00 s := by rw [BitVec.xor_self]; rfl
    _ = exec (.clr d) s := (exec_clr_eq_logicInto d s).symm

/-- AND of a register with itself writes the register back (R150, R190). -/
theorem exec_and_self : exec (.and d d) s = exec (.tst d) s :=
  calc exec (.and d d) s
    _ = logicInto d (s.reg d &&& s.reg d) s := rfl
    _ = logicInto d (s.reg d) s := by rw [BitVec.and_self]
    _ = exec (.tst d) s := by rw [logicInto, writeBack, setReg_reg_self]; rfl

theorem address_disp_zero (a : Word) : (Mode.disp 0).address a = a := BitVec.add_zero a

/-- A load with displacement 0 is the load without a displacement (R226, R230). -/
theorem loadIndirect_disp_zero : loadIndirect p (.disp 0) d s = loadIndirect p .plain d s := by
  rw [loadIndirect, address_disp_zero]
  rfl

/-- A store with displacement 0 is the store without a displacement (R238, R242). -/
theorem storeIndirect_disp_zero : storeIndirect p (.disp 0) d s = storeIndirect p .plain d s := by
  rw [storeIndirect, address_disp_zero]
  rfl

end

theorem exec_core (i : Instr) (s : State) : exec i.core s = exec i s := by
  cases i with
  | clr d => exact exec_eor_self d s
  | tst d => exact exec_and_self d s
  | ldY d => exact loadIndirect_disp_zero .y d s
  | ldZ d => exact loadIndirect_disp_zero .z d s
  | stY r => exact storeIndirect_disp_zero .y r s
  | stZ r => exact storeIndirect_disp_zero .z r s
  | _ => rfl

/-! ### Which forms the second spellings are -/

theorem core_of_mem_secondSpellings {d : Reg} {h : HighReg} {k : BitVec 7} :
    ∀ p ∈ secondSpellings d h k, p.1.core = p.2 := by
  simp [secondSpellings, Instr.core]

/-- The table of R116 leaves no second spelling out. -/
theorem mem_secondSpellings {i : Instr} (hi : i.core ≠ i) : ∃ d h k, (i, i.core) ∈ secondSpellings d h k := by
  cases i with
  | clr d | tst d | lsl d | rol d | ldY d | ldZ d | stY d | stZ d =>
    exact ⟨d, 0, 0, by simp [secondSpellings, Instr.core]⟩
  | ser h => exact ⟨0, h, 0, by simp [secondSpellings, Instr.core]⟩
  | breq k | brne k | brcs k | brlo k | brcc k | brsh k =>
    exact ⟨0, 0, k, by simp [secondSpellings, Instr.core]⟩
  | _ => exact absurd rfl hi

/-- Settles O29: a pair of the table is a form and its core form, which have the same words and the same meaning. -/
theorem secondSpellingsMeanTheirBaseForm : Obligations.SecondSpellingsMeanTheirBaseForm := by
  refine ⟨fun d h k p hp => ?samePair, fun _ _ _ => rfl, fun _ => mem_secondSpellings⟩
  have hcore := core_of_mem_secondSpellings p hp
  exact ⟨hcore ▸ (encode_core p.1).symm, hcore, fun s => hcore ▸ (exec_core p.1 s).symm⟩

/-! ### Targets outside the program counter's range -/

theorem absTarget_refused {k : BitVec 22} {s : State} (h : 2 ^ s.cfg.pcBits ≤ k.toNat) :
    absTarget k s = .refused (.jumpTargetOutsidePcBits k) := if_neg (Nat.not_lt_of_le h)

/-- Settles O24: JMP and CALL both ask for their target first. -/
theorem targetOutsidePcBitsIsRefused : Obligations.TargetOutsidePcBitsIsRefused := by
  intro s k hk
  have hjmp : exec (.jmp k) s = andThen (absTarget k s) fun target => .next (s.setPc target) := rfl
  have hcall : exec (.call k) s = andThen (absTarget k s) fun target => callTo 2 target s := rfl
  rw [hjmp, hcall, absTarget_refused hk]
  exact ⟨rfl, rfl⟩

end Sys2Proof.Machine
end

section
/-! Arithmetic and logic (O12 to O16, O18, O19).  Every instruction of the family ends in `writeBack`, so its frame is
proved once; what is left for each is that the byte and the flags it writes are the ones the statement names. -/

namespace Sys2Proof.Machine

/-! ### What the shared ends write and keep -/

section
variable {i : Instr} {s : State} {d : Reg} {v f : Byte}

/-- R140 read on the next state: Rd and SREG as given, and the frame; only the step of pc, read as a number, needs the
program counter to fit its word. -/
theorem writeBack_frame (h : exec i s = writeBack d v f s) :
    Completes i s fun t => t.reg d = v ∧ t.sreg = f ∧ (s.cfg.pcBits ≤ 16 → pcSteps s t 1) ∧ regsKept s t [d] ∧
      restKept s t := by
  refine ⟨_, h, setReg_reg_same s d v, rfl, advance_pc_toNat _ 1, fun x hx => ?otherRegs, ?rest⟩
  case otherRegs => exact setReg_reg_ne s d x v (List.mem_singleton.not.mp hx)
  case rest => exact ⟨rfl, fun _ => rfl, fun _ => rfl, rfl, rfl, rfl, fun _ => rfl, rfl⟩

theorem writeBack_writesRegAndFlags (hbits : s.cfg.pcBits ≤ 16) (h : exec i s = writeBack d v f s) :
    WritesRegAndFlags i s d v f := by
  obtain ⟨t, ht, hreg, hsreg, hpc, hregs, hrest⟩ := writeBack_frame h
  exact ⟨t, ht, hreg, hsreg, hpc hbits, hregs, hrest⟩

theorem setSreg_writesFlagsOnly (hbits : s.cfg.pcBits ≤ 16) (h : exec i s = .next ((s.setSreg f).advance 1)) :
    WritesFlagsOnly i s f :=
  ⟨_, h, rfl, advance_pc_toNat _ 1 hbits, fun _ _ => rfl, rfl, fun _ => rfl, fun _ => rfl, rfl, rfl, rfl, fun _ => rfl,
    rfl⟩

/-- Writing a register's own byte back leaves only the flags written. -/
theorem writeBack_self (d : Reg) (f : Byte) (s : State) :
    writeBack d (s.reg d) f s = .next ((s.setSreg f).advance 1) := by
  rw [writeBack, setReg_reg_self]

theorem addInto_writes {a b : Byte} {c : Bool} (hbits : s.cfg.pcBits ≤ 16) (h : exec i s = addInto d a b c s)
    (hv : addResult a b c = v) : WritesRegAndFlags i s d v (flagsAdd s.sreg a b c) :=
  hv ▸ writeBack_writesRegAndFlags hbits h

theorem subInto_writes {a b : Byte} {c keepZ : Bool} (hbits : s.cfg.pcBits ≤ 16)
    (h : exec i s = subInto d a b c keepZ s) (hv : subResult a b c = v) :
    WritesRegAndFlags i s d v (flagsSub s.sreg a b c keepZ) :=
  hv ▸ writeBack_writesRegAndFlags hbits h

theorem logicInto_writes (hbits : s.cfg.pcBits ≤ 16) (h : exec i s = logicInto d v s) :
    WritesRegAndFlags i s d v (flagsLogic s.sreg v) :=
  writeBack_writesRegAndFlags hbits h

end

/-! ### The sums -/

section
variable (a b : Byte) (c : Bool)

theorem carryByte_eq_ofNat : carryByte c = BitVec.ofNat 8 c.toNat := by cases c <;> rfl

theorem addResult_eq_add : addResult a b c = a + b + BitVec.ofNat 8 c.toNat := by
  rw [addResult, carryByte_eq_ofNat]

theorem addResult_false : addResult a b false = a + b := BitVec.add_zero _

theorem byte_add_self : a + a = a <<< 1 := by bv_omega

/-- A shift to the left leaves bit 0 clear, so adding the carry there is setting it (R272). -/
theorem addResult_self : addResult a a c = (a <<< 1) ||| BitVec.ofNat 8 c.toNat := by
  rw [addResult_eq_add, byte_add_self]
  refine BitVec.add_eq_or_of_and_eq_zero _ _ ?_
  cases c with
  | false => exact BitVec.and_zero
  | true =>
    ext n hn
    cases n <;> simp [BitVec.getElem_shiftLeft]

theorem subResult_eq_sub : subResult a b c = a - b - BitVec.ofNat 8 c.toNat := by
  rw [subResult, carryByte_eq_ofNat]

theorem subResult_false : subResult a b false = a - b := BitVec.sub_zero _

end

/-- Settles O12: LSL and ROL are additions of a register to itself. -/
theorem additionsWriteTheSumAndItsFlags : Obligations.AdditionsWriteTheSumAndItsFlags := by
  intro s d r hbits
  refine ⟨addInto_writes hbits rfl ?add, addInto_writes hbits rfl ?adc, addInto_writes hbits rfl ?lsl,
    addInto_writes hbits rfl ?rol⟩
  case add => exact addResult_false _ _
  case adc => exact addResult_eq_add _ _ _
  case lsl => rw [addResult_false, byte_add_self]
  case rol => exact addResult_self _ _

/-! ### The differences -/

/-- The register field of format RI names R16 to R31 (R22, R104). -/
theorem highReg_toNat (h : HighReg) : (highReg h).toNat = 16 + h.toNat := by
  revert h; decide

/-- Settles O13: NEG subtracts its register from zero. -/
theorem subtractionsWriteTheDifferenceAndItsFlags : Obligations.SubtractionsWriteTheDifferenceAndItsFlags := by
  intro s d r h k hbits
  refine ⟨highReg_toNat h, subInto_writes hbits rfl ?sub, subInto_writes hbits rfl ?subi,
    subInto_writes hbits rfl ?sbc, subInto_writes hbits rfl ?sbci, subInto_writes hbits rfl ?neg⟩
  case sub | subi => exact subResult_false _ _
  case sbc | sbci => exact subResult_eq_sub _ _ _
  case neg => exact (subResult_false _ _).trans (BitVec.zero_sub _)

/-- The only byte whose negative leaves the signed range is -128, which is its own negative (R149). -/
theorem neg_toInt_overflow_iff (a : Byte) : (-a.toInt < -128 ∨ 127 < -a.toInt) ↔ -a = 0x80 := by
  have hneg : -a = 0x80 ↔ a.toNat = 128 := by bv_omega
  have hlt := a.isLt
  rw [hneg, BitVec.toInt_eq_toNat_cond]
  split <;> omega

/-- Settles O14: the borrows and the overflow of O10, where the minuend is zero and nothing is borrowed before. -/
theorem negFlagsSpelledOut : Obligations.NegFlagsSpelledOut := by
  intro x a f
  obtain ⟨-, -, hH, -, hC, -, hV, -⟩ := flagsSubFollowTheDifference.1 x 0 a false false
  refine ⟨hC.trans ?carry, hV.trans ?overflow, hH.trans ?half⟩
  case carry =>
    have hzero : -a = 0 ↔ a.toNat = 0 := by bv_omega
    rw [ne_eq, hzero]
    simp [Nat.pos_iff_ne_zero]
  case overflow =>
    rw [← neg_toInt_overflow_iff]
    simp
  case half => simp [Nat.pos_iff_ne_zero]

/-! ### The counts -/

/-- INC's V, read off the result in R147, is the signed overflow. -/
theorem inc_overflow (x : Byte) : (x + 1 == 0x80) = decide (x.toInt + 1 > 127) := by
  have hx : x = 0x7F ↔ x.toNat = 127 := by bv_omega
  have hlt := x.isLt
  rw [Bool.eq_iff_iff, beq_iff_eq, decide_eq_true_eq, add_one_eq_0x80_iff, hx, BitVec.toInt_eq_toNat_cond]
  split <;> omega

/-- DEC's V, read off the result in R148, is the signed overflow. -/
theorem dec_overflow (x : Byte) : (x - 1 == 0x7F) = decide (x.toInt - 1 < -128) := by
  have hx : x = 0x80 ↔ x.toNat = 128 := by bv_omega
  have hlt := x.isLt
  rw [Bool.eq_iff_iff, beq_iff_eq, decide_eq_true_eq, sub_one_eq_0x7F_iff, hx, BitVec.toInt_eq_toNat_cond]
  split <;> omega

/-- Settles O15: the overflow of R44 is the model's test on the result, and the rest is the shared frame. -/
theorem incAndDecCountByOne : Obligations.IncAndDecCountByOne := by
  intro s d hbits
  rw [← inc_overflow, ← dec_overflow]
  exact ⟨writeBack_writesRegAndFlags hbits rfl, writeBack_writesRegAndFlags hbits rfl⟩

/-! ### The bitwise operations -/

/-- CLR's flags as a mask: S, V, N cleared and Z set (R156). -/
theorem clr_flags (x : Byte) : withSVNZ x false false false true = (x &&& 0xE1) ||| 0x02 := by
  revert x; decide

/-- COM's difference `0xFF - Rd` is the complement, and its C a set bit 0 (R155). -/
theorem exec_com_eq_writeBack (d : Reg) (s : State) :
    exec (.com d) s = writeBack d (~~~(s.reg d)) (flagsLogic s.sreg (~~~(s.reg d)) ||| 0x01) s := by
  have hnot : 0xFF - s.reg d = ~~~(s.reg d) := BitVec.allOnes_sub_eq_not _
  rw [← withC_true, ← hnot]
  rfl

/-- Settles O16: the five bitwise operations by their shared meaning, COM and CLR by what their flags are. -/
theorem logicWritesTheBitwiseResult : Obligations.LogicWritesTheBitwiseResult := by
  intro s d r h k hbits
  refine ⟨logicInto_writes hbits rfl, logicInto_writes hbits rfl, logicInto_writes hbits rfl,
    logicInto_writes hbits rfl, logicInto_writes hbits rfl, ?com, ?clr⟩
  case com => exact writeBack_writesRegAndFlags hbits (exec_com_eq_writeBack d s)
  case clr =>
    rw [← clr_flags]
    exact writeBack_writesRegAndFlags hbits rfl

/-! ### The same register twice -/

theorem subResult_self (a : Byte) (c : Bool) : subResult a a c = if c then 0xFF else 0x00 := by
  rw [subResult, BitVec.sub_self]
  cases c <;> rfl

/-- The flags of a byte less itself do not depend on the byte (R41, R159). -/
theorem flagsSub_self (x a : Byte) (c keepZ : Bool) : flagsSub x a a c keepZ = flagsSub x 0 0 c keepZ := by
  have hR : subResult a a c = subResult 0 0 c := by rw [subResult_self, subResult_self]
  have hborrow : ∀ p q : Bool, (!p && p || p && q || q && !p) = q := by decide
  have hoverflow : ∀ p q : Bool, (p && !p && !q || !p && p && q) = false := by decide
  simp only [flagsSub, hR, hborrow, hoverflow]

/-- Zero less zero sets Z and clears H, S, V, N and C. -/
theorem flagsSub_zero (x : Byte) : flagsSub x 0 0 false false = (x &&& 0xC0) ||| 0x02 := by
  revert x; decide

/-- Settles O18: the first two forms are the same meaning by definition; the others by what a byte joined with itself
is. -/
theorem sameRegisterForms : Obligations.SameRegisterForms := by
  intro s d hbits
  refine ⟨rfl, rfl, ?sub, ?sbc, exec_and_self d s, ?or, exec_eor_self d s, ?mov, ?cp, ?cpc⟩
  case sub =>
    rw [← flagsSub_zero, ← flagsSub_self _ (s.reg d)]
    exact subInto_writes hbits rfl (subResult_self _ false)
  case sbc =>
    rw [← flagsSub_self _ (s.reg d)]
    exact subInto_writes hbits rfl (subResult_self _ _)
  case or =>
    have hor : exec (.or d d) s = logicInto d (s.reg d) s := congrArg (logicInto d · s) BitVec.or_self
    exact setSreg_writesFlagsOnly hbits (hor.trans (writeBack_self d _ s))
  case mov => exact setSreg_writesFlagsOnly hbits (writeBack_self d s.sreg s)
  case cp =>
    rw [← flagsSub_zero, ← flagsSub_self _ (s.reg d)]
    exact setSreg_writesFlagsOnly hbits rfl
  case cpc =>
    rw [← flagsSub_self _ (s.reg d)]
    exact setSreg_writesFlagsOnly hbits rfl

/-! ### Sixteen-bit addition -/

/-- What an addition that completes leaves, on numbers: the sum, its carry, and the other registers (R40). -/
theorem addInto_sum {i : Instr} {s : State} {d : Reg} {a b : Byte} {c : Bool} (h : exec i s = addInto d a b c s) :
    Completes i s fun t => (t.reg d).toNat = (a.toNat + b.toNat + c.toNat) % 256 ∧
      (flagC t.sreg = true ↔ 255 < a.toNat + b.toNat + c.toNat) ∧ regsKept s t [d] := by
  obtain ⟨-, -, -, -, hC, -⟩ := flagsAddFollowTheSum.1 s.sreg a b c
  obtain ⟨t, ht, hreg, hsreg, -, hregs, -⟩ := writeBack_frame h
  exact ⟨t, ht, hreg ▸ addResult_toNat a b c, hsreg ▸ hC, hregs⟩

theorem carry_toNat {c : Bool} {n : Nat} (hn : n < 512) (hc : c = true ↔ 255 < n) : c.toNat = n / 256 := by
  cases c with
  | true =>
    have hover := hc.mp rfl
    rw [Bool.toNat_true]
    omega
  | false =>
    have hnot := mt hc.mpr Bool.false_ne_true
    rw [Bool.toNat_false]
    omega

/-- Settles O19: the first addition touches neither operand of the second, which adds its carry; the second does not touch
the low destination. -/
theorem addThenAdcAddsSixteenBits : Obligations.AddThenAdcAddsSixteenBits := by
  intro s dl rl dh rh hdh hrh
  obtain ⟨t, ht, hlow, hcarry, hkept⟩ := addInto_sum (i := .add dl rl) (s := s) rfl
  obtain ⟨u, hu, hhigh, hC, hkept'⟩ := addInto_sum (i := .adc dh rh) (s := t) rfl
  have hdl : u.reg dl = t.reg dl := hkept' dl (List.mem_singleton.not.mpr hdh)
  rw [hkept dh (List.mem_singleton.not.mpr hdh.symm), hkept rh (List.mem_singleton.not.mpr hrh.symm)] at hhigh hC
  have hlow0 := (s.reg dl).isLt
  have hlow1 := (s.reg rl).isLt
  have hcarryIn : (flagC t.sreg).toNat = ((s.reg dl).toNat + (s.reg rl).toNat) / 256 := carry_toNat (by omega) hcarry
  refine ⟨t, u, ht, hu, ?sum, ?carry⟩
  case sum =>
    rw [hdl, hlow, hhigh, hcarryIn, Bool.toNat_false]
    omega
  case carry =>
    rw [hC, hcarryIn]
    omega

end Sys2Proof.Machine
end

section
/-! Compares, jumps, branches, calls and returns (O20 to O23, O25 to O28).  A jump, a branch, a call and a return all end in
`setPc`, so their targets are read as numbers once; what a call pushes and what a return pops are said once each, and the
round trip is the second applied to the first. -/

namespace Sys2Proof.Machine

/-! ### Compares -/

/-- Settles O20: a compare writes SREG and steps on, by its definition. -/
theorem comparesWriteFlagsOnly : Obligations.ComparesWriteFlagsOnly := fun _ _ _ _ _ hbits =>
  ⟨setSreg_writesFlagsOnly hbits rfl, setSreg_writesFlagsOnly hbits rfl, setSreg_writesFlagsOnly hbits rfl,
    setSreg_writesFlagsOnly hbits rfl⟩

/-- The sign of the result and the signed overflow together tell the signed order (R41, R187). -/
theorem flagsSub_signed_iff (x a b : Byte) (keepZ : Bool) :
    flagS (flagsSub x a b false keepZ) = true ↔ a.toInt < b.toInt := by
  obtain ⟨hR, -, -, -, -, -, hV, hN, -, hS, -⟩ := flagsSubFollowTheDifference.1 x a b false keepZ
  have ha := a.isLt
  have hb := b.isLt
  have hNeg : flagN (flagsSub x a b false keepZ) = true ↔ (subResult a b false).toNat / 2 ^ 7 % 2 = 1 := by
    rw [hN, bit_eq_true]
  have hxor : ∀ n v : Bool, (n ^^ v) = true ↔ ¬(n = true ↔ v = true) := by decide
  rw [Bool.toNat_false] at hR hV
  rw [hS, hxor, hNeg, hV, byte_toInt, byte_toInt]
  split <;> split <;> omega

/-- What the flags of a compare without borrow decide (R187, R189). -/
theorem flagsSub_decides (x a b : Byte) : let f := flagsSub x a b false false
    (flagZ f = true ↔ a = b) ∧ (flagC f = true ↔ a.toNat < b.toNat) ∧ (flagS f = true ↔ a.toInt < b.toInt) := by
  obtain ⟨-, -, -, -, hC, -, -, -, hZ, -⟩ := flagsSubFollowTheDifference.1 x a b false false
  refine ⟨hZ.trans ?equal, hC, flagsSub_signed_iff x a b false⟩
  case equal =>
    have hdiff : a - b = 0#8 ↔ a = b := by bv_omega
    simp [subResult_false, hdiff]

/-- Settles O21: both compares leave the flags of a difference without borrow. -/
theorem compareDecidesTheOrder : Obligations.CompareDecidesTheOrder := fun _ _ _ _ _ =>
  ⟨⟨_, rfl, flagsSub_decides _ _ _⟩, ⟨_, rfl, flagsSub_decides _ _ _⟩⟩

theorem borrow_toNat {c : Bool} {a b : Byte} (h : c = true ↔ a.toNat < b.toNat) :
    c.toNat = if a.toNat < b.toNat then 1 else 0 := by
  rw [← if_congr h rfl rfl]
  cases c <;> rfl

/-- Settles O22: CP leaves the borrow of the low bytes for CPC, which keeps Z only where the low bytes are equal. -/
theorem cpThenCpcComparesSixteenBits : Obligations.CpThenCpcComparesSixteenBits := by
  intro s dl rl dh rh
  obtain ⟨hZlow, hClow, -⟩ := flagsSub_decides s.sreg (s.reg dl) (s.reg rl)
  generalize hf : flagsSub s.sreg (s.reg dl) (s.reg rl) false false = f at hZlow hClow
  obtain ⟨hR, -, -, -, hC, -, -, -, hZ, -⟩ := flagsSubFollowTheDifference.1 f (s.reg dh) (s.reg rh) (flagC f) true
  rw [borrow_toNat hClow] at hR hC
  have hdl := (s.reg dl).isLt
  have hrl := (s.reg rl).isLt
  have hdh := (s.reg dh).isLt
  have hrh := (s.reg rh).isLt
  refine ⟨(s.setSreg f).advance 1, _, hf ▸ rfl, rfl, hZ.trans ?equal, hC.trans ?lower⟩
  case equal =>
    have hzero : ∀ R : Byte, R = 0 ↔ R.toNat = 0 := fun _ => BitVec.toNat_inj.symm
    simp only [forall_const, hZlow, hzero, ← BitVec.toNat_inj]
    split at hR <;> omega
  case lower => split <;> omega

/-! ### Targets, on numbers -/

theorem relTarget_toNat {s : State} {n : Nat} (k : BitVec n) :
    ((s.relTarget k).toNat : Int) = ((s.pc.toNat : Int) + k.toInt + 1) % 2 ^ 16 := by
  have hext : (k.signExtend 16).toNat = (k.toInt % 2 ^ 16).toNat := BitVec.toNat_ofInt ..
  have hone : (1 : Word).toNat = 1 := rfl
  rw [State.relTarget, BitVec.toNat_add, BitVec.toNat_add, hext, hone]
  omega

/-- The relative target goes modulo `2^PC_BITS` (R27, R180); to take it modulo `2^16` before makes no difference. -/
theorem pcJumps_of_relTarget {s t : State} {n : Nat} {k : BitVec n} (hbits : s.cfg.pcBits ≤ 16)
    (hpc : t.pc = s.wrapPc (s.relTarget k)) : pcJumps s t k.toInt := by
  have hdvd : (2 ^ s.cfg.pcBits : Int) ∣ 2 ^ 16 := pow_dvd_pow 2 hbits
  rw [pcJumps, hpc, wrapPc_toNat s _ hbits, Int.natCast_mod, relTarget_toNat, Nat.cast_pow, Nat.cast_ofNat,
    Int.emod_emod_of_dvd _ hdvd]

/-- An absolute target below `2^PC_BITS` is reached as it stands (R182, R184). -/
theorem wrapPc_ofNat_toNat {s : State} {n : Nat} (hbits : s.cfg.pcBits ≤ 16) (hn : n < 2 ^ s.cfg.pcBits) :
    (s.wrapPc (BitVec.ofNat 16 n)).toNat = n := by
  have hword : n < 2 ^ 16 := hn.trans_le (Nat.pow_le_pow_right two_pos hbits)
  rw [wrapPc_toNat s _ hbits, BitVec.toNat_ofNat, Nat.mod_eq_of_lt hword, Nat.mod_eq_of_lt hn]

/-! ### Jumps and branches -/

theorem setPc_keeps (s : State) (a : Word) :
    (s.setPc a).sreg = s.sreg ∧ regsKept s (s.setPc a) [] ∧ restKept s (s.setPc a) :=
  ⟨rfl, fun _ _ => rfl, rfl, fun _ => rfl, fun _ => rfl, rfl, rfl, rfl, fun _ => rfl, rfl⟩

/-- JMP below `2^PC_BITS` (R182). -/
theorem exec_jmp_eq_setPc {a : BitVec 22} {s : State} (ha : a.toNat < 2 ^ s.cfg.pcBits) :
    exec (.jmp a) s = .next (s.setPc (BitVec.ofNat 16 a.toNat)) := by
  have hjmp : exec (.jmp a) s = andThen (absTarget a s) fun target => .next (s.setPc target) := rfl
  rw [hjmp, absTarget_eq ha, andThen_next]

/-- Settles O23: both are one `setPc`. -/
theorem jumpsSetThePcOnly : Obligations.JumpsSetThePcOnly := fun s _ _ hbits =>
  ⟨⟨_, rfl, pcJumps_of_relTarget hbits rfl, setPc_keeps s _⟩,
    fun ha => ⟨_, exec_jmp_eq_setPc ha, wrapPc_ofNat_toNat hbits ha, setPc_keeps s _⟩⟩

theorem branchIf_branchesOn {i : Instr} {s : State} {taken : Bool} {k : BitVec 7} (hbits : s.cfg.pcBits ≤ 16)
    (h : exec i s = branchIf taken k s) : BranchesOn i s taken k := by
  cases taken with
  | true => exact ⟨_, h, pcJumps_of_relTarget hbits rfl, setPc_keeps s _⟩
  | false => exact ⟨_, h, advance_pc_toNat s 1 hbits, setPc_keeps s _⟩

/-- Settles O25: the eight forms share one meaning, each with its own condition. -/
theorem branchesTestOneFlag : Obligations.BranchesTestOneFlag := fun _ _ _ hbits =>
  ⟨branchIf_branchesOn hbits rfl, branchIf_branchesOn hbits rfl, branchIf_branchesOn hbits rfl,
    branchIf_branchesOn hbits rfl, branchIf_branchesOn hbits rfl, branchIf_branchesOn hbits rfl,
    branchIf_branchesOn hbits rfl, branchIf_branchesOn hbits rfl⟩

/-! ### Calls -/

/-- The push of an address where there is room for it (R71): the low byte at SP, the high byte below it. -/
theorem pushAddr_of_stackRoom {s : State} (ra : Word) (hroom : stackRoom s) :
    pushAddr ra s = .next (((s.setRam s.sp.toNat (ra.extractLsb' 0 8)).setRam (s.sp - 1).toNat
      (ra.extractLsb' 8 8)).setSp (s.sp - 2)) := by
  obtain ⟨⟨hlow, hstart, hend⟩, hlow', hstart', hend'⟩ := hroom
  have hsp : s.sp - 1 - 1 = s.sp - 2 := by bv_omega
  rw [pushAddr, push_ram _ hlow hstart hend, andThen_next, push_ram _ hlow' hstart' hend', ← hsp]
  rfl

theorem pushAddr_pushedAddress {s : State} (ra : Word) (hroom : stackRoom s) :
    ∃ t, pushAddr ra s = .next t ∧ pushedAddress s t ra.toNat ∧ t = { s with ram := t.ram, sp := t.sp } := by
  have hne : s.sp.toNat ≠ (s.sp - 1).toNat := by bv_omega
  refine ⟨_, pushAddr_of_stackRoom ra hroom, ⟨?low, ?high, fun a ha => ?others, rfl⟩, rfl⟩
  case low => rw [setSp_ramByte, setRam_ramByte, if_neg hne, setRam_ramByte, if_pos rfl, lowByte_eq_ofNat]
  case high => rw [setSp_ramByte, setRam_ramByte, if_pos rfl, highByte_eq_ofNat]
  case others =>
    simp only [List.mem_cons, List.not_mem_nil, or_false, not_or] at ha
    obtain ⟨hsp, hbelow⟩ := ha
    rw [setSp_ramByte, setRam_ramByte, if_neg hbelow, setRam_ramByte, if_neg hsp]

/-- What a call leaves where there is room on the stack (R71, R183, R184). -/
theorem callTo_completes {i : Instr} {s : State} {len : Nat} {target : Word} (hbits : s.cfg.pcBits ≤ 16)
    (hroom : stackRoom s) (h : exec i s = callTo len target s) :
    Completes i s fun t => pushedAddress s t ((s.pc.toNat + len) % 2 ^ s.cfg.pcBits) ∧ t.pc = s.wrapPc target ∧
      t.sreg = s.sreg ∧ regsKept s t [] ∧ latchesKept s t ∧ t.irqHold = s.irqHold ∧ t.draws = s.draws ∧
      givenKept s t := by
  obtain ⟨u, hu, hpushed, hkept⟩ := pushAddr_pushedAddress (s.advance len).pc hroom
  rw [advance_pc_toNat s len hbits] at hpushed
  refine ⟨u.setPc target, h.trans (andThen_eq_next.mpr ⟨u, hu, rfl⟩), hpushed, ?kept⟩
  rw [hkept]
  exact ⟨rfl, rfl, fun _ _ => rfl, fun _ => rfl, rfl, rfl, rfl, fun _ => rfl, rfl⟩

theorem exec_call_eq_callTo {a : BitVec 22} {s : State} (ha : a.toNat < 2 ^ s.cfg.pcBits) :
    exec (.call a) s = callTo 2 (BitVec.ofNat 16 a.toNat) s := by
  have hcall : exec (.call a) s = andThen (absTarget a s) fun target => callTo 2 target s := rfl
  rw [hcall, absTarget_eq ha, andThen_next]

/-- Settles O26: one call, with the target of RJMP and the target of JMP. -/
theorem callsPushTheReturnAddress : Obligations.CallsPushTheReturnAddress := by
  intro s k a hbits hroom
  refine ⟨?rcall, fun ha => ?call⟩
  case rcall =>
    obtain ⟨t, ht, hpushed, hpc, hkept⟩ := callTo_completes (i := .rcall k) hbits hroom rfl
    exact ⟨t, ht, hpushed, pcJumps_of_relTarget hbits hpc, hkept⟩
  case call =>
    obtain ⟨t, ht, hpushed, hpc, hkept⟩ := callTo_completes hbits hroom (exec_call_eq_callTo ha)
    exact ⟨t, ht, hpushed, (congrArg BitVec.toNat hpc).trans (wrapPc_ofNat_toNat hbits ha), hkept⟩

/-! ### Returns -/

/-- The pop of one byte, in the terms of the statements (R70, R62). -/
theorem pop_of_isRam {s : State} (h : isRam s.cfg (s.sp + 1)) :
    pop s = .next (ramValue s (s.sp + 1), { s with sp := s.sp + 1, draws := s.draws + ramDraws s (s.sp + 1) }) := by
  obtain ⟨hlow, hstart, hend⟩ := h
  rw [pop_ram hlow hstart hend, ramRead_eq]
  rfl

/-- The pop of an address from two bytes of RAM: the high byte, then the low one (R71). -/
theorem popAddr_of_stackHolds {s : State} (hholds : stackHolds s) :
    popAddr s = .next
      (ramValue s (s.sp + 1) ++ ramValue { s with draws := s.draws + ramDraws s (s.sp + 1) } (s.sp + 2),
        { s with sp := s.sp + 2, draws := s.draws + ramDraws s (s.sp + 1) + ramDraws s (s.sp + 2) }) := by
  obtain ⟨hhigh, hlow⟩ := hholds
  have hsp : s.sp + 2 = s.sp + 1 + 1 := by bv_omega
  rw [hsp] at hlow ⊢
  rw [popAddr, pop_of_isRam hhigh, andThen_next]
  exact congrArg (andThen · _) (pop_of_isRam hlow)

/-- Settles O27: RET by the pop of the address; RETI is RET, and then I and `irq_hold`. -/
theorem returnsPopTheAddress : Obligations.ReturnsPopTheAddress := by
  intro s hi lo hbits hholds hhi hlo
  have hpop := popAddr_of_stackHolds hholds
  rw [← hhi, ← hlo, append_eq_ofNat] at hpop
  have hret : exec .ret s = _ := andThen_eq_next.mpr ⟨_, hpop, rfl⟩
  have hpc : (s.wrapPc (BitVec.ofNat 16 (hi.toNat * 256 + lo.toNat))).toNat =
      (hi.toNat * 256 + lo.toNat) % 2 ^ s.cfg.pcBits := by
    rw [wrapPc_toNat s _ hbits, BitVec.toNat_ofNat]
    exact Nat.mod_mod_of_dvd _ (Nat.pow_dvd_pow 2 hbits)
  refine ⟨⟨_, hret, hpc, rfl, rfl, ?ret⟩, _, andThen_eq_next.mpr ⟨_, hret, rfl⟩, hpc, rfl, withI_true _, ?reti⟩
  case ret | reti => exact ⟨fun _ _ => rfl, fun _ => rfl, fun _ => rfl, rfl, rfl, rfl, fun _ => rfl, rfl⟩

/-! ### There and back -/

theorem ramValue_of_ramByte {s : State} {a : Word} {v : Byte} (h : s.ramByte a.toNat = some v) :
    ramValue s a = v := by
  rw [ramValue, h, Option.getD_some]

/-- RET takes back the address a call has pushed: pc is that address, and SP is where it was before the call. -/
theorem ret_of_pushedAddress {s t : State} {ra : Nat} (hbits : s.cfg.pcBits ≤ 16) (hroom : stackRoom s)
    (hra : ra < 2 ^ s.cfg.pcBits) (hcfg : t.cfg = s.cfg) (hpushed : pushedAddress s t ra) :
    Completes .ret t fun u => u.pc.toNat = ra ∧ u.sp = s.sp ∧ u.sreg = t.sreg ∧ regsKept t u [] ∧ ramKept t u := by
  obtain ⟨hlow, hhigh, -, hsp⟩ := hpushed
  have hsp1 : t.sp + 1 = s.sp - 1 := by bv_omega
  have hsp2 : t.sp + 2 = s.sp := by bv_omega
  have hholds : stackHolds t := by rw [stackHolds, hsp1, hsp2, hcfg]; exact hroom.symm
  rw [← hsp2] at hlow
  rw [← hsp1] at hhigh
  have hlow' : ({ t with draws := t.draws + ramDraws t (t.sp + 1) } : State).ramByte (t.sp + 2).toNat =
    some (BitVec.ofNat 8 ra) := hlow
  obtain ⟨⟨u, hu, hpc, husp, husreg, huregs, huram, -⟩, -⟩ := returnsPopTheAddress t _ _ (hcfg ▸ hbits) hholds
    (ramValue_of_ramByte hhigh).symm (ramValue_of_ramByte hlow').symm
  refine ⟨u, hu, hpc.trans ?address, husp.trans hsp2, husreg, huregs, huram⟩
  case address =>
    have hword : ra < 2 ^ 16 := hra.trans_le (Nat.pow_le_pow_right two_pos hbits)
    have hbytes : (BitVec.ofNat 8 (ra / 256)).toNat * 256 + (BitVec.ofNat 8 ra).toNat = ra := by
      rw [BitVec.toNat_ofNat, BitVec.toNat_ofNat]
      omega
    rw [hbytes, hcfg, Nat.mod_eq_of_lt hra]

/-- A call and then RET, whatever the call's target and its length (R199). -/
theorem callTo_then_ret {i : Instr} {s : State} {len : Nat} {target : Word} (hbits : s.cfg.pcBits ≤ 16)
    (hroom : stackRoom s) (h : exec i s = callTo len target s) :
    ∃ t u, exec i s = .next t ∧ exec .ret t = .next u ∧ pcSteps s u len ∧ u.sp = s.sp ∧ u.sreg = s.sreg ∧
      regsKept s u [] ∧ ramKeptBut s u [s.sp.toNat, (s.sp - 1).toNat] := by
  obtain ⟨t, ht, hpushed, -, hsreg, hregs, -, -, -, hcfg, -⟩ := callTo_completes hbits hroom h
  have hra := Nat.mod_lt (s.pc.toNat + len) (Nat.two_pow_pos s.cfg.pcBits)
  obtain ⟨u, hu, hpc, hsp, husreg, huregs, huram⟩ := ret_of_pushedAddress hbits hroom hra hcfg hpushed
  obtain ⟨-, -, hram, -⟩ := hpushed
  exact ⟨t, u, ht, hu, hpc, hsp, husreg.trans hsreg, fun x hx => (huregs x hx).trans (hregs x hx),
    fun a ha => (huram a).trans (hram a ha)⟩

/-- Settles O28: RCALL and CALL are calls of one and of two words. -/
theorem callThenRetComesBack : Obligations.CallThenRetComesBack := fun _ _ _ hbits hroom =>
  ⟨callTo_then_ret hbits hroom rfl, fun ha => callTo_then_ret hbits hroom (exec_call_eq_callTo ha)⟩

end Sys2Proof.Machine
end

section
/-! Data transfer: the moves (O30), and the loads and stores (O32 to O36).  Where its data register is no half of its
pointer, every form is one access with its pointer update; in RAM, one lemma for the loads and one for the stores says what
that leaves. -/

namespace Sys2Proof.Machine

/-- Settles O30: each of the three is the shared end of a register instruction, with SREG written back as it is. -/
theorem movesWriteOneRegister : Obligations.MovesWriteOneRegister := fun _ _ _ _ _ hbits =>
  ⟨writeBack_writesRegAndFlags hbits rfl, writeBack_writesRegAndFlags hbits rfl, writeBack_writesRegAndFlags hbits rfl⟩

/-! ### A data register that is half of the pointer -/

section
variable {d : Reg}

theorem half_eq_true {p : Pointer} (h : d = p.low ∨ d = p.high) : p.half d = true := by
  rcases h with rfl | rfl
  · simp [Pointer.half]
  · simp [Pointer.half]

/-- Both updating modes are refused on a half of the pointer, in the loads and in the stores (R250). -/
theorem updatingModes_refused (s : State) (p : Pointer) (h : d = p.low ∨ d = p.high) :
    loadIndirect p .postInc d s = .refused (.pointerRegisterUpdated d) ∧
    loadIndirect p .preDec d s = .refused (.pointerRegisterUpdated d) ∧
    storeIndirect p .postInc d s = .refused (.pointerRegisterUpdated d) ∧
    storeIndirect p .preDec d s = .refused (.pointerRegisterUpdated d) := by
  have hhalf := half_eq_true h
  exact ⟨if_pos hhalf, if_pos hhalf, if_pos hhalf, if_pos hhalf⟩

theorem loadFlash_postInc_refused (s : State) (h : d = 30 ∨ d = 31) :
    loadFlash .postInc d s = .refused (.pointerRegisterUpdated d) := if_pos (half_eq_true (p := .z) h)

end

/-- Settles O36: the four forms of each pointer, and for Z the load from program memory too. -/
theorem pointerHalfAsDataRegisterIsRefused : Obligations.PointerHalfAsDataRegisterIsRefused := by
  intro s d
  simp only [List.forall_mem_cons, List.not_mem_nil, false_implies, implies_true, and_true]
  refine ⟨updatingModes_refused s .x, updatingModes_refused s .y, fun hd => ?z⟩
  case z =>
    obtain ⟨hloadInc, hloadDec, hstoreInc, hstoreDec⟩ := updatingModes_refused s .z hd
    exact ⟨hloadInc, hloadDec, hstoreInc, hstoreDec, loadFlash_postInc_refused s hd⟩

/-! ### The pseudocode of the loads and the stores -/

section
variable {p : Pointer} {m : Mode} {d r : Reg} {s : State}

theorem loadIndirect_eq (h : m.clashes p d = false) :
    loadIndirect p m d s = andThen (memRead (m.address (s.pair p)) (m.before p (m.address (s.pair p)) s)) fun x =>
      .next ((m.after p (m.address (s.pair p)) (x.2.setReg d x.1)).advance 1) :=
  if_neg (Bool.not_eq_true _ ▸ h)

theorem modeBefore_reg {a : Word} (h : m.clashes p r = false) : (m.before p a s).reg r = s.reg r := by
  cases m with
  | preDec => exact setPair_reg_ne s p a r h
  | plain | postInc | disp => rfl

/-- The stored byte is R[r] from before the pre-decrement, which writes other registers (R237, R250). -/
theorem storeIndirect_eq (h : m.clashes p r = false) :
    storeIndirect p m r s =
      andThen (memWrite (m.address (s.pair p)) (s.reg r) (m.before p (m.address (s.pair p)) s)) fun t =>
        .next ((m.after p (m.address (s.pair p)) t).advance 1) := by
  rw [← modeBefore_reg h]
  exact if_neg (Bool.not_eq_true _ ▸ h)

theorem clashes_eq_false (m : Mode) (hlow : d ≠ p.low) (hhigh : d ≠ p.high) : m.clashes p d = false := by
  cases m with
  | postInc | preDec => exact half_eq_false hlow hhigh
  | plain | disp => rfl

end

/-- The two updating loads of one pointer (R224, R225). -/
theorem updatingLoads_eq {d : Reg} {s : State} (p : Pointer) (hlow : d ≠ p.low) (hhigh : d ≠ p.high) :
    loadIndirect p .postInc d s = (andThen (memRead (s.pair p) s) fun x =>
      .next (((x.2.setReg d x.1).setPair p (s.pair p + 1)).advance 1)) ∧
    loadIndirect p .preDec d s = (andThen (memRead (s.pair p - 1) (s.setPair p (s.pair p - 1))) fun x =>
      .next ((x.2.setReg d x.1).advance 1)) :=
  ⟨loadIndirect_eq (clashes_eq_false _ hlow hhigh), loadIndirect_eq (clashes_eq_false _ hlow hhigh)⟩

/-- The two updating stores of one pointer (R236, R237). -/
theorem updatingStores_eq {r : Reg} {s : State} (p : Pointer) (hlow : r ≠ p.low) (hhigh : r ≠ p.high) :
    storeIndirect p .postInc r s = (andThen (memWrite (s.pair p) (s.reg r) s) fun t =>
      .next ((t.setPair p (s.pair p + 1)).advance 1)) ∧
    storeIndirect p .preDec r s = (andThen (memWrite (s.pair p - 1) (s.reg r) (s.setPair p (s.pair p - 1))) fun t =>
      .next (t.advance 1)) :=
  ⟨storeIndirect_eq (clashes_eq_false _ hlow hhigh), storeIndirect_eq (clashes_eq_false _ hlow hhigh)⟩

/-- LDS from R16 up (R222). -/
theorem exec_lds_eq {d : Reg} {k : Word} {s : State} (h : 16 ≤ d.toNat) :
    exec (.lds d k) s = andThen (memRead k s) fun x => .next ((x.2.setReg d x.1).advance 2) :=
  if_neg (Nat.not_lt_of_le h)

/-- Settles O34: only LDS and the updating forms have a check to pass first. -/
theorem loadFormsFollowTheirPseudocode : Obligations.LoadFormsFollowTheirPseudocode := fun _ _ _ _ =>
  ⟨exec_lds_eq, rfl, rfl, rfl, rfl, rfl, updatingLoads_eq .x, updatingLoads_eq .y, updatingLoads_eq .z⟩

/-- Settles O35: only the updating forms have a check to pass first. -/
theorem storeFormsFollowTheirPseudocode : Obligations.StoreFormsFollowTheirPseudocode := fun _ _ _ _ =>
  ⟨rfl, rfl, rfl, rfl, rfl, rfl, updatingStores_eq .x, updatingStores_eq .y, updatingStores_eq .z⟩

/-! ### The pointer update -/

/-- The pointer update of a mode, `a` its effective address (R251). -/
def Mode.update (m : Mode) (p : Pointer) (a : Word) : Option (Pointer × Word) :=
  match m with
  | .postInc => some (p, a + 1)
  | .preDec => some (p, a)
  | .plain | .disp _ => none

/-- A pointer update, if there is one: it writes registers only. -/
def State.movePointer (s : State) (upd : Option (Pointer × Word)) : State :=
  { s with regs := (upd.elim s fun u => s.setPair u.1 u.2).regs }

section
variable {p : Pointer} {d : Reg} {a : Word} {s : State}

theorem movePointer_regsKept (s : State) (upd : Option (Pointer × Word)) :
    regsKept s (s.movePointer upd) ((upd.map fun u => [u.1.low, u.1.high]).getD []) := by
  cases upd with
  | none => exact fun _ _ => rfl
  | some u => exact setPair_regsKept s u.1 u.2

theorem movePointer_pair {upd : Option (Pointer × Word)} {w : Word} (h : upd = some (p, w)) :
    (s.movePointer upd).pair p = w :=
  h ▸ setPair_pair_same s p w

theorem setReg_comm {x : Reg} (v w : Byte) (h : d ≠ x) :
    (s.setReg d v).setReg x w = (s.setReg x w).setReg d v := by
  have hne : d.toNat ≠ x.toNat := BitVec.toNat_inj.not.mpr h
  simp only [State.setReg, Vector.set_comm _ _ hne]

/-- A register outside the pointer may be written before the pointer's update as well as after it. -/
theorem setPair_setReg_comm {w : Word} (v : Byte) (h : p.half d = false) :
    (s.setPair p w).setReg d v = (s.setReg d v).setPair p w := by
  simp only [Pointer.half, Bool.or_eq_false_iff, beq_eq_false_iff_ne] at h
  obtain ⟨hlow, hhigh⟩ := h
  rw [State.setPair, setReg_comm _ _ hhigh.symm, setReg_comm _ _ hlow.symm, ← State.setPair]

theorem update_half {m : Mode} (h : m.clashes p d = false) : ∀ u ∈ m.update p a, u.1.half d = false := by
  cases m with
  | postInc | preDec => exact fun u hu => Option.some.inj hu ▸ h
  | plain | disp => exact nofun

theorem modeBefore_isRam {m : Mode} {b : Word} (h : isRam s.cfg a) : isRam (m.before p b s).cfg a := by
  obtain ⟨_, hregs⟩ := modeBefore_regs m p b s
  exact hregs ▸ h

end

/-! ### Loads from RAM -/

section
variable {i j : Instr} {p : Pointer} {m : Mode} {d : Reg} {a : Word} {upd : Option (Pointer × Word)} {len : Nat}
  {s : State}

theorem memRead_of_isRam (h : isRam s.cfg a) :
    memRead a s = .next (ramValue s a, { s with draws := s.draws + ramDraws s a }) := by
  obtain ⟨hlow, hstart, hend⟩ := h
  rw [memRead_ram hlow hstart hend, ramRead_eq]

/-- What a load of the RAM byte at `a` into Rd leaves, before pc moves on: the draws, Rd and the pointer. -/
def State.loaded (s : State) (d : Reg) (a : Word) (upd : Option (Pointer × Word)) : State :=
  (({ s with draws := s.draws + ramDraws s a } : State).setReg d (ramValue s a)).movePointer upd

theorem loadsFromRam_of_loaded (hbits : s.cfg.pcBits ≤ 16) (hupd : ∀ u ∈ upd, u.1.half d = false)
    (h : exec i s = .next ((s.loaded d a upd).advance len)) : LoadsFromRam i s d a upd len := by
  have hmoved := movePointer_regsKept
    (({ s with draws := s.draws + ramDraws s a } : State).setReg d (ramValue s a)) upd
  refine ⟨_, h, (hmoved d ?outside).trans (setReg_reg_same ..), fun _ _ hu => movePointer_pair hu,
    fun x hx => ?otherRegs, rfl, rfl, fun _ => rfl, fun _ => rfl, rfl, rfl, ⟨rfl, fun _ => rfl, rfl⟩,
    advance_pc_toNat _ len hbits⟩
  case outside =>
    cases upd with
    | none => exact List.not_mem_nil
    | some u =>
      have hhalf := hupd u rfl
      simpa [Pointer.half] using hhalf
  case otherRegs =>
    simp only [List.mem_cons, not_or] at hx
    obtain ⟨hd, hpair⟩ := hx
    exact (hmoved x hpair).trans (setReg_reg_ne _ d x _ hd)

theorem loadIndirect_of_isRam (hclash : m.clashes p d = false) (hram : isRam s.cfg (m.address (s.pair p))) :
    loadIndirect p m d s =
      .next ((s.loaded d (m.address (s.pair p)) (m.update p (m.address (s.pair p)))).advance 1) := by
  rw [loadIndirect_eq hclash, memRead_of_isRam (modeBefore_isRam hram), andThen_next]
  cases m with
  | preDec =>
    have hcomm := setPair_setReg_comm (s := { s with draws := s.draws + ramDraws s (s.pair p - 1) }) (w := s.pair p - 1)
      (ramValue s (s.pair p - 1)) hclash
    exact congrArg (fun t : State => Host.Outcome.next (t.advance 1)) hcomm
  | plain | postInc | disp => rfl

/-- Every indirect load from RAM (R223 to R233). -/
theorem loadIndirect_loadsFromRam (hbits : s.cfg.pcBits ≤ 16) (hclash : m.clashes p d = false)
    (h : exec i s = loadIndirect p m d s) (hram : isRam s.cfg (m.address (s.pair p))) :
    LoadsFromRam i s d (m.address (s.pair p)) (m.update p (m.address (s.pair p))) 1 :=
  loadsFromRam_of_loaded hbits (update_half hclash) (h.trans (loadIndirect_of_isRam hclash hram))

theorem updatingLoads_loadFromRam (hbits : s.cfg.pcBits ≤ 16) (hinc : exec i s = loadIndirect p .postInc d s)
    (hdec : exec j s = loadIndirect p .preDec d s) (hlow : d ≠ p.low) (hhigh : d ≠ p.high) :
    (isRam s.cfg (s.pair p) → LoadsFromRam i s d (s.pair p) (some (p, s.pair p + 1)) 1) ∧
    (isRam s.cfg (s.pair p - 1) → LoadsFromRam j s d (s.pair p - 1) (some (p, s.pair p - 1)) 1) :=
  ⟨loadIndirect_loadsFromRam hbits (clashes_eq_false _ hlow hhigh) hinc,
    loadIndirect_loadsFromRam hbits (clashes_eq_false _ hlow hhigh) hdec⟩

end

/-- Settles O32: LDS, the five modes without an update, and the two updating modes of each pointer. -/
theorem loadFormsReadRam : Obligations.LoadFormsReadRam := by
  intro s d k q hbits
  refine ⟨fun hd hram => loadsFromRam_of_loaded hbits nofun ?lds,
    loadIndirect_loadsFromRam (m := .plain) hbits rfl rfl, loadIndirect_loadsFromRam (m := .plain) hbits rfl rfl,
    loadIndirect_loadsFromRam (m := .plain) hbits rfl rfl, loadIndirect_loadsFromRam (m := .disp q) hbits rfl rfl,
    loadIndirect_loadsFromRam (m := .disp q) hbits rfl rfl, updatingLoads_loadFromRam (p := .x) hbits rfl rfl,
    updatingLoads_loadFromRam (p := .y) hbits rfl rfl, updatingLoads_loadFromRam (p := .z) hbits rfl rfl⟩
  case lds =>
    rw [exec_lds_eq hd, memRead_of_isRam hram]
    rfl

/-! ### Stores to RAM -/

section
variable {i j : Instr} {p : Pointer} {m : Mode} {r : Reg} {a : Word} {upd : Option (Pointer × Word)} {len : Nat}
  {s : State}

theorem memWrite_of_isRam (v : Byte) (h : isRam s.cfg a) : memWrite a v s = .next (s.setRam a.toNat v) := by
  obtain ⟨hlow, hstart, hend⟩ := h
  exact memWrite_ram v hlow hstart hend

theorem storesToRam_of_stored (hbits : s.cfg.pcBits ≤ 16)
    (h : exec i s = .next (((s.setRam a.toNat (s.reg r)).movePointer upd).advance len)) :
    StoresToRam i s r a upd len :=
  ⟨_, h, (setRam_ramByte ..).trans (if_pos rfl),
    fun _ hb => (setRam_ramByte ..).trans (if_neg (List.mem_singleton.not.mp hb)),
    fun _ _ hu => movePointer_pair hu, movePointer_regsKept (s.setRam a.toNat (s.reg r)) upd, rfl, rfl,
    fun _ => rfl, rfl, rfl, ⟨rfl, fun _ => rfl, rfl⟩, advance_pc_toNat _ len hbits⟩

theorem storeIndirect_of_isRam (hclash : m.clashes p r = false) (hram : isRam s.cfg (m.address (s.pair p))) :
    storeIndirect p m r s =
      .next (((s.setRam (m.address (s.pair p)).toNat (s.reg r)).movePointer
        (m.update p (m.address (s.pair p)))).advance 1) := by
  rw [storeIndirect_eq hclash, memWrite_of_isRam _ (modeBefore_isRam hram), andThen_next]
  cases m with
  | plain | postInc | preDec | disp => rfl

/-- Every indirect store to RAM (R235 to R245). -/
theorem storeIndirect_storesToRam (hbits : s.cfg.pcBits ≤ 16) (hclash : m.clashes p r = false)
    (h : exec i s = storeIndirect p m r s) (hram : isRam s.cfg (m.address (s.pair p))) :
    StoresToRam i s r (m.address (s.pair p)) (m.update p (m.address (s.pair p))) 1 :=
  storesToRam_of_stored hbits (h.trans (storeIndirect_of_isRam hclash hram))

theorem updatingStores_storeToRam (hbits : s.cfg.pcBits ≤ 16) (hinc : exec i s = storeIndirect p .postInc r s)
    (hdec : exec j s = storeIndirect p .preDec r s) (hlow : r ≠ p.low) (hhigh : r ≠ p.high) :
    (isRam s.cfg (s.pair p) → StoresToRam i s r (s.pair p) (some (p, s.pair p + 1)) 1) ∧
    (isRam s.cfg (s.pair p - 1) → StoresToRam j s r (s.pair p - 1) (some (p, s.pair p - 1)) 1) :=
  ⟨storeIndirect_storesToRam hbits (clashes_eq_false _ hlow hhigh) hinc,
    storeIndirect_storesToRam hbits (clashes_eq_false _ hlow hhigh) hdec⟩

end

/-- Settles O33: STS, the five modes without an update, and the two updating modes of each pointer. -/
theorem storeFormsWriteRam : Obligations.StoreFormsWriteRam := fun _ _ _ q hbits =>
  ⟨fun hram => storesToRam_of_stored hbits (andThen_eq_next.mpr ⟨_, memWrite_of_isRam _ hram, rfl⟩),
    storeIndirect_storesToRam (m := .plain) hbits rfl rfl, storeIndirect_storesToRam (m := .plain) hbits rfl rfl,
    storeIndirect_storesToRam (m := .plain) hbits rfl rfl, storeIndirect_storesToRam (m := .disp q) hbits rfl rfl,
    storeIndirect_storesToRam (m := .disp q) hbits rfl rfl, updatingStores_storeToRam (p := .x) hbits rfl rfl,
    updatingStores_storeToRam (p := .y) hbits rfl rfl, updatingStores_storeToRam (p := .z) hbits rfl rfl⟩

end Sys2Proof.Machine
end

section
/-! Data transfer: IN and OUT (O40, O41), PUSH and POP (O42 to O44).  IN and OUT are one I/O access, whose answer at each
register is the table's (R64); PUSH and POP are one access to the stack byte. -/

namespace Sys2Proof.Machine

theorem pcBits_le_of_wf {c : Config} (h : c.wf = true) : c.pcBits ≤ 16 := by
  simp only [Config.wf, Bool.and_eq_true, decide_eq_true_eq] at h
  obtain ⟨⟨⟨⟨⟨⟨⟨⟨hbits, -⟩, -⟩, -⟩, -⟩, -⟩, -⟩, -⟩, -⟩ := h
  exact hbits

/-! ### IN -/

section
variable {c : Config} {a : IoAddr} {s : State}

/-- Every I/O address of a legal configuration has its register, and a PINx only at the address of one (R63). -/
theorem exists_ioReg_of_mem (hwf : c.wf = true) (ha : a ∈ c.ioAddresses) :
    ∃ r, ioReg c a = some r ∧ (r = .pin → ∃ p ∈ c.ports, a = p.pinIo) := by
  simp only [Config.ioAddresses_eq, List.mem_append, List.mem_cons, List.not_mem_nil, or_false, List.mem_flatMap,
    PortMap.addresses] at ha
  obtain (rfl | rfl | rfl) | ⟨p, hp, rfl | rfl | rfl⟩ := ha
  · exact ⟨_, ioReg_sregIo c, nofun⟩
  · exact ⟨_, ioReg_sphIo hwf, nofun⟩
  · exact ⟨_, ioReg_splIo hwf, nofun⟩
  · exact ⟨_, ioReg_pinIo hwf hp, fun _ => ⟨p, hp, rfl⟩⟩
  · exact ⟨_, ioReg_ddrIo hwf hp, nofun⟩
  · exact ⟨_, ioReg_portIo hwf hp, nofun⟩

theorem exists_ioRead {r : IoReg} (h : ioReg s.cfg a = some r) : ∃ v t, ioRead a s = .next (v, t) := by
  rw [ioRead, h]
  cases r with
  | sreg | spl | sph | ddr | port | pin => exact ⟨_, _, rfl⟩

theorem ioRead_pin (h : ioReg s.cfg a = some .pin) : ioRead a s = .next (Config.pinLevels s.draws, s.drawn) := by
  rw [ioRead, h]

/-- How many draws an I/O read takes: one at a PINx, none elsewhere (R34). -/
theorem ioRead_draws_eq {v : Byte} {t : State} (hwf : s.cfg.wf = true) (ha : a ∈ s.cfg.ioAddresses)
    (h : ioRead a s = .next (v, t)) :
    t.draws = s.draws + (if ∃ p ∈ s.cfg.ports, a = p.pinIo then 1 else 0) := by
  rcases ioRead_next h with ⟨r, hr, hne, rfl⟩ | ⟨hreg, rfl⟩
  · have hnone : ¬∃ p ∈ t.cfg.ports, a = p.pinIo := by
      rintro ⟨p, hp, rfl⟩
      exact hne (Option.some.inj (hr.symm.trans (ioReg_pinIo hwf hp)))
    rw [if_neg hnone, Nat.add_zero]
  · obtain ⟨r, hr, hpin⟩ := exists_ioReg_of_mem hwf ha
    rw [if_pos (hpin (Option.some.inj (hr.symm.trans hreg))), drawn_draws]

/-- What an I/O read answers at each register (R64). -/
theorem ioRead_value {v : Byte} {t : State} (hwf : s.cfg.wf = true) (h : ioRead a s = .next (v, t)) :
    (a = s.cfg.sregIo → v = s.sreg) ∧
    (a = s.cfg.splIo → v.toNat = s.sp.toNat % 256) ∧
    (a = s.cfg.sphIo → v.toNat = s.sp.toNat / 256) ∧
    ∀ p ∈ s.cfg.ports, (a = p.ddrIo ∨ a = p.portIo → v = s.latch a) ∧
      (a = p.pinIo → v = Config.pinLevels s.draws) := by
  have hvalue : ∀ {w : Byte} {u : State}, ioRead a s = .next (w, u) → v = w := fun hw =>
    (Prod.mk.inj (Host.Outcome.next.inj (h.symm.trans hw))).1
  refine ⟨?sreg, ?spl, ?sph, fun p hp => ⟨?latch, ?pin⟩⟩
  case sreg =>
    rintro rfl
    exact hvalue (by rw [ioRead, ioReg_sregIo])
  case spl =>
    rintro rfl
    rw [hvalue (by rw [ioRead, ioReg_splIo hwf]), lowByte_toNat]
  case sph =>
    rintro rfl
    rw [hvalue (by rw [ioRead, ioReg_sphIo hwf]), highByte_toNat]
  case latch =>
    rintro (rfl | rfl)
    · exact hvalue (ioRead_latch (.inl (ioReg_ddrIo hwf hp)))
    · exact hvalue (ioRead_latch (.inr (ioReg_portIo hwf hp)))
  case pin =>
    rintro rfl
    exact hvalue (ioRead_pin (ioReg_pinIo hwf hp))

/-- IN is one I/O read and the write of Rd (R246). -/
theorem in_completes {d : Reg} {v : Byte} {u : State} (hbits : s.cfg.pcBits ≤ 16) (h : ioRead a s = .next (v, u)) :
    Completes (.ioIn d a) s fun t => t.reg d = v ∧ t.draws = u.draws ∧ regsKept s t [d] ∧ t.sreg = s.sreg ∧
      t.sp = s.sp ∧ ramKept s t ∧ latchesKept s t ∧ t.irqHold = s.irqHold ∧ givenKept s t ∧ pcSteps s t 1 := by
  refine ⟨_, andThen_eq_next.mpr ⟨_, h, rfl⟩, setReg_reg_same u d v, rfl, ?kept⟩
  obtain ⟨n, rfl⟩ := ioRead_draws h
  exact ⟨fun x hx => setReg_reg_ne _ d x v (List.mem_singleton.not.mp hx), rfl, rfl, fun _ => rfl, fun _ => rfl, rfl,
    ⟨rfl, fun _ => rfl, rfl⟩, advance_pc_toNat _ 1 hbits⟩

end

/-- Settles O40: at a register's address the read answers, and its answer is the table's. -/
theorem inReadsTheIoRegister : Obligations.InReadsTheIoRegister := by
  intro s d a hwf
  refine ⟨fun ha => ?completes, fun ha => ?refused⟩
  case completes =>
    obtain ⟨r, hr, -⟩ := exists_ioReg_of_mem hwf ha
    obtain ⟨v, u, hread⟩ := exists_ioRead hr
    obtain ⟨hsreg, hspl, hsph, hports⟩ := ioRead_value hwf hread
    obtain ⟨t, ht, rfl, hdraws, hkept⟩ := in_completes (d := d) (pcBits_le_of_wf hwf) hread
    exact ⟨t, ht, hsreg, hspl, hsph, hports, hdraws.trans (ioRead_draws_eq hwf ha hread), hkept⟩
  case refused =>
    have hin : exec (.ioIn d a) s = andThen (ioRead a s) fun x => .next ((x.2.setReg d x.1).advance 1) := rfl
    rw [hin, ioRead, ioReg_eq_none ha, andThen_refused]

/-! ### OUT -/

section
variable {a : IoAddr} {r : Reg} {s t : State}

/-- OUT is one I/O write (R247). -/
theorem exec_out_next (h : ioWrite a (s.reg r) s = .next t) : exec (.ioOut a r) s = .next (t.advance 1) :=
  andThen_eq_next.mpr ⟨t, h, rfl⟩

theorem exec_out_refused {x : Refusal} (h : ioWrite a (s.reg r) s = .refused x) :
    exec (.ioOut a r) s = .refused x := by
  have hout : exec (.ioOut a r) s = andThen (ioWrite a (s.reg r) s) fun t => .next (t.advance 1) := rfl
  rw [hout, h, andThen_refused]

end

/-- Settles O41: the write of the table, and then pc. -/
theorem outWritesTheIoRegister : Obligations.OutWritesTheIoRegister := by
  intro s r hwf hlatches
  have hbits := pcBits_le_of_wf hwf
  have hbyte := (s.reg r).isLt
  have hsp := s.sp.isLt
  obtain ⟨-, ⟨hsreg, hspl, hsph⟩, hports, hnone⟩ := ioAccessFollowsTheTable s (s.reg r) hwf hlatches
  refine ⟨⟨_, exec_out_next hsreg, rfl, rfl, rfl, ?sreg⟩, ⟨_, exec_out_next hspl, ?splValue, rfl, rfl, ?spl⟩,
    ⟨_, exec_out_next hsph, ?sphValue, rfl, rfl, ?sph⟩, fun p hp => ⟨fun a ha => ?latch, ?pin⟩,
    fun a ha => exec_out_refused (hnone a ha).2⟩
  case sreg | spl | sph =>
    exact ⟨fun _ _ => rfl, fun _ => rfl, fun _ => rfl, rfl, ⟨rfl, fun _ => rfl, rfl⟩, advance_pc_toNat _ 1 hbits⟩
  case splValue => exact Nat.mod_eq_of_lt (by omega)
  case sphValue => exact Nat.mod_eq_of_lt (by omega)
  case latch =>
    obtain ⟨-, t, ht, hlatch, hothers, hkept⟩ := (hports p hp).1 a ha
    refine ⟨_, exec_out_next ht, hlatch, hothers, ?kept⟩
    rw [hkept]
    exact ⟨rfl, rfl, rfl, fun _ _ => rfl, fun _ => rfl, rfl, ⟨rfl, fun _ => rfl, rfl⟩, advance_pc_toNat _ 1 hbits⟩
  case pin =>
    obtain ⟨-, -, hwrite⟩ := hports p hp
    exact exec_out_refused hwrite

/-! ### PUSH and POP -/

section
variable {d r : Reg} {s : State}

theorem exec_push_of_isRam (h : isRam s.cfg s.sp) :
    exec (.push r) s = .next (((s.setRam s.sp.toNat (s.reg r)).setSp (s.sp - 1)).advance 1) := by
  obtain ⟨hlow, hstart, hend⟩ := h
  exact andThen_eq_next.mpr ⟨_, push_ram (s.reg r) hlow hstart hend, rfl⟩

theorem exec_pop_of_isRam (h : isRam s.cfg (s.sp + 1)) :
    exec (.pop d) s = .next ((({ s with sp := s.sp + 1, draws := s.draws + ramDraws s (s.sp + 1) } : State).setReg d
      (ramValue s (s.sp + 1))).advance 1) :=
  andThen_eq_next.mpr ⟨_, pop_of_isRam h, rfl⟩

end

/-- Settles O42: the push where SP names RAM, field by field. -/
theorem pushStoresThenDecrements : Obligations.PushStoresThenDecrements := fun _ _ hbits hram =>
  ⟨_, exec_push_of_isRam hram, (setRam_ramByte ..).trans (if_pos rfl),
    fun _ ha => (setRam_ramByte ..).trans (if_neg (List.mem_singleton.not.mp ha)), rfl, rfl, fun _ _ => rfl,
    fun _ => rfl, rfl, rfl, ⟨rfl, fun _ => rfl, rfl⟩, advance_pc_toNat _ 1 hbits⟩

/-- Settles O43: the pop where SP + 1 names RAM, field by field. -/
theorem popIncrementsThenLoads : Obligations.PopIncrementsThenLoads := fun _ d hbits hram =>
  ⟨_, exec_pop_of_isRam hram, setReg_reg_same .., rfl,
    fun x hx => setReg_reg_ne _ d x _ (List.mem_singleton.not.mp hx), rfl, fun _ => rfl, fun _ => rfl, rfl, rfl,
    ⟨rfl, fun _ => rfl, rfl⟩, advance_pc_toNat _ 1 hbits⟩

/-- Settles O44: after the push, SP + 1 is the old SP, and the byte there is the pushed one. -/
theorem popAfterPushReturnsTheValue : Obligations.PopAfterPushReturnsTheValue := by
  intro s r d hram
  generalize hpushed : ((s.setRam s.sp.toNat (s.reg r)).setSp (s.sp - 1)).advance 1 = t
  have hcfg : t.cfg = s.cfg := hpushed ▸ rfl
  have hsp : t.sp + 1 = s.sp := hpushed ▸ BitVec.sub_add_cancel s.sp 1
  have hbyte : t.ramByte s.sp.toNat = some (s.reg r) := hpushed ▸ (setRam_ramByte ..).trans (if_pos rfl)
  have hpop := exec_pop_of_isRam (d := d) (s := t) (by rwa [hsp, hcfg])
  rw [hsp, ramValue_of_ramByte hbyte] at hpop
  refine ⟨t, _, hpushed ▸ exec_push_of_isRam hram, hpop, setReg_reg_same .., rfl, fun x hx => ?otherRegs, ?sreg,
    fun a ha => ?otherBytes⟩
  case otherRegs => exact (setReg_reg_ne _ d x _ (List.mem_singleton.not.mp hx)).trans (hpushed ▸ rfl)
  case sreg => exact hpushed ▸ rfl
  case otherBytes => exact hpushed ▸ (setRam_ramByte ..).trans (if_neg (List.mem_singleton.not.mp ha))

end Sys2Proof.Machine
end

section
/-! The right shifts (O17).  All three end in `shiftInto`, so each is the shared frame of `writeBack`, and what it writes is
half of its operand: read as a number with the bit that enters on top, or as a signed number rounded down. -/

namespace Sys2Proof.Machine

/-! ### Halving a byte -/

section
variable (a : Byte) (c : Bool)

theorem shiftRight_one_toNat : (a >>> 1).toNat = a.toNat / 2 := by
  rw [BitVec.toNat_ushiftRight, Nat.shiftRight_one]

/-- The bit that enters at the top weighs 128, and the seven bits below it are half of the byte (R273). -/
theorem rotateRight_toNat : (BitVec.ofBool c ++ a.extractLsb' 1 7).toNat = 128 * c.toNat + a.toNat / 2 := by
  have hhalf : (a.extractLsb' 1 7).toNat = a.toNat / 2 := by
    rw [BitVec.extractLsb'_toNat, Nat.shiftRight_one]
    omega
  rw [BitVec.toNat_append, ← Nat.shiftLeft_add_eq_or_of_lt (BitVec.isLt _), BitVec.toNat_ofBool, hhalf, Nat.shiftLeft_eq,
    Nat.mul_comm]

/-- Shifting right under a kept bit 7 is the arithmetic shift (R274): below bit 7 the mask adds nothing, and at bit 7 the
shift to the right does not. -/
theorem signKept_eq_sshiftRight : (a &&& (0x80 : Byte)) ||| (a >>> 1) = a.sshiftRight 1 := by
  have hmask : (0x80 : Byte) = BitVec.twoPow 8 7 := rfl
  ext n hn
  rw [hmask, BitVec.getElem_or, BitVec.getElem_and, BitVec.getElem_twoPow, BitVec.getElem_ushiftRight,
    BitVec.getElem_sshiftRight]
  by_cases htop : n = 7
  · subst htop
    simp [BitVec.msb_eq_getLsbD_last]
  · have hbelow : 1 + n < 8 := by omega
    simp [htop, hbelow]

theorem sshiftRight_one_toInt : (a.sshiftRight 1).toInt = a.toInt / 2 := by
  rw [BitVec.toInt_sshiftRight, Int.shiftRight_eq_div_pow]
  rfl

end

theorem shiftInto_writes {i : Instr} {s : State} {d : Reg} {v : Byte} (hbits : s.cfg.pcBits ≤ 16)
    (h : exec i s = shiftInto d v s) : WritesRegAndFlags i s d v (flagsShr s.sreg (s.reg d) v) :=
  writeBack_writesRegAndFlags hbits h

/-- Settles O17: the byte each right shift writes is the half the statement asks for. -/
theorem rightShiftsHalve : Obligations.RightShiftsHalve := by
  intro s d hbits
  refine ⟨⟨_, ?lsr, shiftInto_writes hbits rfl⟩, ⟨_, ?ror, shiftInto_writes hbits rfl⟩,
    ⟨_, ?asr, shiftInto_writes hbits rfl⟩⟩
  case lsr => exact shiftRight_one_toNat _
  case ror => exact rotateRight_toNat _ _
  case asr => exact (congrArg BitVec.toInt (signKept_eq_sshiftRight _)).trans (sshiftRight_one_toInt _)

end Sys2Proof.Machine
end

section
/-! The miscellaneous instructions (O46, O47).  NOP and CLI end as a compare does; LPM ends as a register instruction does,
once the byte at an address of program memory is seen to be one half of the word there. -/

namespace Sys2Proof.Machine

/-! ### NOP, SEI and CLI -/

/-- Clearing I clears bit 7 (R287). -/
theorem withI_false (x : Byte) : withI x false = x &&& 0x7F := by
  revert x; decide

theorem exec_cli_eq (s : State) : exec .cli s = .next ((s.setSreg (s.sreg &&& 0x7F)).advance 1) := by
  rw [← withI_false]
  rfl

theorem exec_sei_eq (s : State) : exec .sei s = .next (((s.setSreg (s.sreg ||| 0x80)).setHold true).advance 1) := by
  rw [← withI_true]
  rfl

/-- Settles O46: NOP and CLI have the frame of an instruction that writes SREG only, NOP writing it back as it is; SEI also
sets `irq_hold`. -/
theorem nopSeiAndCli : Obligations.NopSeiAndCli := fun s hbits =>
  ⟨setSreg_writesFlagsOnly hbits rfl, setSreg_writesFlagsOnly hbits (exec_cli_eq s),
    _, exec_sei_eq s, rfl, rfl, rfl, fun _ _ => rfl, fun _ => rfl, fun _ => rfl, rfl, ⟨rfl, fun _ => rfl, rfl⟩,
    advance_pc_toNat _ 1 hbits⟩

/-! ### The bytes of program memory -/

section
variable {s : State} {b : Word}

theorem flashByte_inside (h : b.toNat / 2 < s.cfg.flashWords) : flashByte b s = .next (s.rawFlash b.toNat) := by
  have hword : (b >>> 1).toNat = b.toNat / 2 := by rw [BitVec.toNat_ushiftRight, Nat.shiftRight_one]
  exact if_pos (inFlash_eq_true (hword ▸ h))

theorem rawFlashWord_lowByte (s : State) (w : Word) :
    BitVec.ofNat 8 (s.rawFlashWord w).toNat = s.rawFlash (2 * w.toNat) := by
  rw [← lowByte_eq_ofNat, State.rawFlashWord]
  exact BitVec.extractLsb'_append_eq_right

theorem rawFlashWord_highByte (s : State) (w : Word) :
    BitVec.ofNat 8 ((s.rawFlashWord w).toNat / 256) = s.rawFlash (2 * w.toNat + 1) := by
  rw [← highByte_eq_ofNat, State.rawFlashWord]
  exact BitVec.extractLsb'_append_eq_left

/-- The byte at an even address is the low byte of the word there, the byte at an odd address its high byte (R67). -/
theorem byteOfWord_eq_rawFlash (s : State) (b : Word) :
    let w := s.rawFlashWord (BitVec.ofNat 16 (b.toNat / 2))
    BitVec.ofNat 8 (if b.toNat % 2 = 0 then w.toNat else w.toNat / 256) = s.rawFlash b.toNat := by
  have hb := b.isLt
  have hhalf : (BitVec.ofNat 16 (b.toNat / 2)).toNat = b.toNat / 2 := Nat.mod_eq_of_lt (by omega)
  by_cases heven : b.toNat % 2 = 0
  case pos =>
    have haddr : 2 * (b.toNat / 2) = b.toNat := by omega
    simp only [if_pos heven, rawFlashWord_lowByte, hhalf, haddr]
  case neg =>
    have haddr : 2 * (b.toNat / 2) + 1 = b.toNat := by omega
    simp only [if_neg heven, rawFlashWord_highByte, hhalf, haddr]

/-! ### LPM -/

theorem loadFlash_inside {m : Mode} {d : Reg} (hclash : m.clashes .z d = false)
    (h : (s.pair .z).toNat / 2 < s.cfg.flashWords) :
    loadFlash m d s =
      .next ((m.after .z (s.pair .z) (s.setReg d (s.rawFlash (s.pair .z).toNat))).advance 1) := by
  simp only [loadFlash, hclash, Bool.false_eq_true, if_false, flashByte_inside h, andThen_next]

end

/-- Settles O47: the plain form is the shared end of a register instruction, with SREG written back as it is; the other form
then writes Z, of which Rd is no half. -/
theorem lpmLoadsTheFlashByte : Obligations.LpmLoadsTheFlashByte := by
  intro s d hbits hinside
  simp only [byteOfWord_eq_rawFlash]
  refine ⟨writeBack_writesRegAndFlags hbits (loadFlash_inside (m := .plain) rfl hinside),
    fun hlow hhigh => ?postInc⟩
  case postInc =>
    have hhalf : Pointer.z.half d = false := half_eq_false hlow hhigh
    refine ⟨_, loadFlash_inside (m := .postInc) hhalf hinside, ?value, setPair_pair_same .., fun x hx => ?otherRegs,
      rfl, advance_pc_toNat _ 1 hbits, rfl, fun _ => rfl, fun _ => rfl, rfl, rfl, rfl, fun _ => rfl, rfl⟩
    case value => exact (setPair_reg_ne _ .z _ d hhalf).trans (setReg_reg_same ..)
    case otherRegs =>
      obtain ⟨hd, hpair⟩ := not_or.mp (List.mem_cons.not.mp hx)
      exact (setPair_regsKept _ .z _ x hpair).trans (setReg_reg_ne _ d x _ hd)

end Sys2Proof.Machine
end

section
/-! Interrupts (O6, O49, O50, O51).  Whether one is due is said once, as an equivalence; the entry is the push of a call with
I cleared, and RETI is RET with I set again, so the return from an interrupt is the return from a call. -/

namespace Sys2Proof.Machine

section
variable {s t : State} {src : IrqSource}

/-! ### Which interrupt is due -/

theorem highestPriority_eq_none_iff {xs : List IrqSource} : highestPriority xs = none ↔ xs = [] := by
  cases xs with
  | nil => simp [highestPriority]
  | cons x xs =>
    rw [highestPriority]
    cases highestPriority xs with
    | none => simp
    | some y => by_cases hle : x.priority ≤ y.priority <;> simp [hle]

/-- An interrupt is due exactly when I is 1, `irq_hold` is 0 and a source requests; it is the one of highest priority
(R305). -/
theorem dueInterrupt_eq_some_iff :
    s.dueInterrupt = some src ↔
      flagI s.sreg = true ∧ s.irqHold = false ∧ highestPriority s.requesting = some src := by
  simp [State.dueInterrupt, and_assoc]

theorem exists_dueInterrupt_iff :
    (∃ src, s.dueInterrupt = some src) ↔ flagI s.sreg = true ∧ s.irqHold = false ∧ s.requesting ≠ [] := by
  simp only [dueInterrupt_eq_some_iff, exists_and_left, ← Option.ne_none_iff_exists', ne_eq,
    highestPriority_eq_none_iff]

theorem mem_requesting_of_dueInterrupt (h : s.dueInterrupt = some src) : src ∈ s.requesting := by
  obtain ⟨-, -, hchosen⟩ := dueInterrupt_eq_some_iff.mp h
  exact (highestPriority_spec hchosen).1

/-- What requests is a source of the configuration (R304). -/
theorem mem_irq_of_mem_requesting (h : src ∈ s.requesting) : src ∈ s.cfg.irq := by
  obtain ⟨n, -, hn⟩ := List.mem_filterMap.mp h
  exact List.mem_of_getElem? hn

/-! ### The two kinds of step -/

theorem step_of_dueInterrupt (h : s.dueInterrupt = some src) : step s = interruptEntry src s.passBoundary := by
  rw [step, h]

theorem step_of_dueInterrupt_eq_none (h : s.dueInterrupt = none) :
    step s = andThen (fetch s) fun i => exec i s.enterInstr := by
  rw [step, h]

/-! ### The entry -/

/-- The vectors of a legal configuration lie inside program memory (R304). -/
theorem vector_lt_flashWords {c : Config} (hwf : c.wf = true) (hsrc : src ∈ c.irq) :
    src.vector.toNat < c.flashWords := by
  simp only [Config.wf, Bool.and_eq_true, decide_eq_true_eq, List.all_eq_true] at hwf
  obtain ⟨⟨-, hvectors⟩, -⟩ := hwf
  exact hvectors src hsrc

/-- A word address below `2^PC_BITS` is reached as it stands (R27). -/
theorem wrapPc_of_lt {w : Word} (hbits : s.cfg.pcBits ≤ 16) (h : w.toNat < 2 ^ s.cfg.pcBits) : s.wrapPc w = w :=
  BitVec.eq_of_toNat_eq ((wrapPc_toNat s w hbits).trans (Nat.mod_eq_of_lt h))

theorem wrapPc_vector (hwf : s.cfg.wf = true) (hsrc : src ∈ s.cfg.irq) : s.wrapPc src.vector = src.vector := by
  obtain ⟨hbits, hflash⟩ := s.cfg.flashWords_le hwf
  exact wrapPc_of_lt hbits ((vector_lt_flashWords hwf hsrc).trans_le hflash)

theorem stackRoom_of_interruptEntry (h : interruptEntry src s = .next t) : stackRoom s := by
  obtain ⟨u, hpush, -⟩ := andThen_eq_next.mp h
  exact stackRoom_of_pushAddr hpush

end

/-- Settles O6: the fetch answers what the bytes at pc decode to. -/
theorem stepRunsTheDecodedInstruction : Obligations.StepRunsTheDecodedInstruction := fun _ _ _ hdue hpc hdecode =>
  step_of_fetch hdue (fetch_of_decode hpc hdecode)

/-- Settles O49: the condition is that of a due interrupt, and the due one is the choice of `highestPriority`. -/
theorem interruptIsTakenExactlyWhenEnabled : Obligations.InterruptIsTakenExactlyWhenEnabled := by
  intro s
  refine ⟨fun henabled => ?taken, fun hnot => ?notTaken⟩
  case taken =>
    obtain ⟨src, hdue⟩ := exists_dueInterrupt_iff.mpr henabled
    obtain ⟨-, -, hchosen⟩ := dueInterrupt_eq_some_iff.mp hdue
    obtain ⟨hmem, hleast⟩ := highestPriority_spec hchosen
    exact ⟨src, hmem, hleast, step_of_dueInterrupt hdue⟩
  case notTaken =>
    have hdue : s.dueInterrupt = none := Option.eq_none_iff_forall_ne_some.mpr fun src hsrc =>
      hnot (exists_dueInterrupt_iff.mp ⟨src, hsrc⟩)
    exact step_of_dueInterrupt_eq_none hdue

/-- Settles O50: the push of the pc changes RAM and SP only, and what is left to do is I and the pc. -/
theorem interruptEntrySavesThePcOnly : Obligations.InterruptEntrySavesThePcOnly := by
  intro s src
  refine ⟨fun hwf hsrc hroom => ?entry, fun hroom t h => hroom (stackRoom_of_interruptEntry h)⟩
  case entry =>
    obtain ⟨u, hu, hpushed, hkept⟩ := pushAddr_pushedAddress s.pc hroom
    refine ⟨(u.setSreg (withI u.sreg false)).setPc src.vector, andThen_eq_next.mpr ⟨u, hu, rfl⟩, hpushed, ?kept⟩
    rw [hkept]
    exact ⟨wrapPc_vector hwf hsrc, withI_false _, fun _ _ => rfl, fun _ => rfl, rfl, rfl, rfl, fun _ => rfl, rfl⟩

/-! ### Entry and return -/

section
variable {s t : State}

/-- RETI takes back the address an entry has pushed as RET does; then I and `irq_hold` are set (R186, R309). -/
theorem reti_of_pushedAddress {ra : Nat} (hbits : s.cfg.pcBits ≤ 16) (hroom : stackRoom s)
    (hra : ra < 2 ^ s.cfg.pcBits) (hcfg : t.cfg = s.cfg) (hpushed : pushedAddress s t ra) :
    Completes .reti t fun u => u.pc.toNat = ra ∧ u.sp = s.sp ∧ u.sreg = withI t.sreg true ∧ u.irqHold = true ∧
      regsKept t u [] ∧ ramKept t u ∧ latchesKept t u := by
  obtain ⟨u, hret, hpc, hsp, hsreg, hregs, hram⟩ := ret_of_pushedAddress hbits hroom hra hcfg hpushed
  obtain ⟨-, hlatches, -⟩ := nonStoringInstructionsKeepTheRest .ret t u hret rfl
  exact ⟨(u.setSreg (withI u.sreg true)).setHold true, andThen_eq_next.mpr ⟨u, hret, rfl⟩, hpc, hsp,
    congrArg (withI · true) hsreg, rfl, hregs, hram, hlatches⟩

/-- Where I was 1, clearing it (R306) and setting it again (R309) gives SREG back. -/
theorem withI_true_of_cleared {x : Byte} (h : flagI x = true) : withI (x &&& 0x7F) true = x := by
  calc withI (x &&& 0x7F) true = withI (withI x false) true := by rw [withI_false]
    _ = withI x (flagI x) := by simp [withI, h]
    _ = x := packSreg_flags x

/-- No interrupt is due where I is 0, as the entry leaves it. -/
theorem dueInterrupt_of_flagI (h : flagI s.sreg = false) : s.dueInterrupt = none := by
  simp [State.dueInterrupt, h]

/-- Where no interrupt is due, a step at the word of RETI runs RETI (R186). -/
theorem step_of_retiWord (hwf : s.cfg.wf = true) (hdue : s.dueInterrupt = none) (hpc : s.pc.toNat < s.cfg.flashWords)
    (hword : s.rawFlashWord s.pc = 0x9518) : step s = exec .reti s.enterInstr := by
  refine placedInstructionIsTheOneRun s .reti hwf hdue hpc fun n w hw => ?_
  have hwords : encodeWords .reti = [0x9518] := rfl
  rw [hwords, List.getElem?_singleton] at hw
  obtain ⟨rfl, hw⟩ := Option.ite_none_right_eq_some.mp hw
  exact (congrArg s.rawFlashWord (BitVec.add_zero s.pc)).trans (hword.trans (Option.some.inj hw))

end

/-- Settles O51: the entry pushes the pc and leaves I at 0, so that RETI runs next; it takes the pc back as RET does, and
setting I restores SREG. -/
theorem entryThenRetiResumes : Obligations.EntryThenRetiResumes := by
  intro s src hwf hpc hdue hroom hword
  obtain ⟨hI, -, -⟩ := dueInterrupt_eq_some_iff.mp hdue
  have hsrc := mem_irq_of_mem_requesting (mem_requesting_of_dueInterrupt hdue)
  obtain ⟨t, hentry, hpushed, htpc, htsreg, htregs, htlatches, -, -, htcfg, htflash, -⟩ :=
    (interruptEntrySavesThePcOnly s.passBoundary src).1 hwf hsrc hroom
  have htdue : t.dueInterrupt = none := dueInterrupt_of_flagI (interruptEntry_irq hentry).1
  have htinside : t.pc.toNat < t.cfg.flashWords := by
    rw [htpc, htcfg]
    exact vector_lt_flashWords hwf hsrc
  have htword : t.rawFlashWord t.pc = 0x9518 := by
    rw [htpc, State.rawFlashWord, htflash, htflash]
    exact hword
  obtain ⟨u, hreti, hupc, husp, husreg, huhold, huregs, huram, hulatches⟩ :=
    reti_of_pushedAddress (t := t.enterInstr) (pcBits_le_of_wf hwf) hroom hpc htcfg hpushed
  have hsreg : u.sreg = s.sreg := husreg.trans ((congrArg (withI · true) htsreg).trans (withI_true_of_cleared hI))
  obtain ⟨-, -, htram, -⟩ := hpushed
  exact ⟨t, u, (step_of_dueInterrupt hdue).trans hentry,
    (step_of_retiWord (htcfg ▸ hwf) htdue htinside htword).trans hreti, BitVec.eq_of_toNat_eq hupc, husp, hsreg,
    huhold, fun x hx => (huregs x hx).trans (htregs x hx), fun a ha => (huram a).trans (htram a ha),
    fun a => (hulatches a).trans (htlatches a)⟩

end Sys2Proof.Machine
end

section
/-! The end of a run (O59).  `RJMP -1` jumps to itself, so the step at its word does no more than enter the instruction; the
end state is found by following the steps, one by one, while no state is finished. -/

namespace Sys2Proof.Machine

section
variable {s t : State}

/-! ### The end loop is a fixed point -/

/-- Where no interrupt is due, a step at the only word of a one-word instruction runs that instruction (R68). -/
theorem step_of_placedWord {i : Instr} {w : Word} (hwords : encodeWords i = [w]) (hlen : i.words = 1)
    (hwf : s.cfg.wf = true) (hdue : s.dueInterrupt = none) (hpc : s.pc.toNat < s.cfg.flashWords)
    (hword : s.rawFlashWord s.pc = w) : step s = exec i.core s.enterInstr := by
  refine placedInstructionIsTheOneRun s i hwf hdue (by omega) fun n v hv => ?_
  rw [hwords, List.getElem?_singleton] at hv
  obtain ⟨rfl, hv⟩ := Option.ite_none_right_eq_some.mp hv
  exact (congrArg s.rawFlashWord (BitVec.add_zero s.pc)).trans (hword.trans (Option.some.inj hv))

/-- RJMP with an offset of -1 goes to its own address (R181). -/
theorem relTarget_minusOne : s.relTarget (-1 : BitVec 12) = s.pc := by
  have hminus : (-1 : BitVec 12).signExtend 16 = -1 := by decide
  rw [State.relTarget, hminus, BitVec.add_assoc]
  exact BitVec.add_zero s.pc

theorem setPc_self (h : s.wrapPc s.pc = s.pc) : s.setPc s.pc = s := by
  rw [State.setPc, h]

/-- A word address inside program memory is one the pc can hold (R25). -/
theorem wrapPc_of_inside {w : Word} (hwf : s.cfg.wf = true) (h : w.toNat < s.cfg.flashWords) : s.wrapPc w = w := by
  obtain ⟨hbits, hflash⟩ := s.cfg.flashWords_le hwf
  exact wrapPc_of_lt hbits (h.trans_le hflash)

theorem exec_rjmp_minusOne (h : s.wrapPc s.pc = s.pc) : exec (.rjmp (-1)) s = .next s := by
  calc exec (.rjmp (-1)) s = .next (s.setPc (s.relTarget (-1 : BitVec 12))) := rfl
    _ = .next s := by rw [relTarget_minusOne, setPc_self h]

/-- At the end loop the step only passes the boundary and clears `irq_hold` (R305, R348). -/
theorem step_at_endLoopWord (hwf : s.cfg.wf = true) (hdue : s.dueInterrupt = none) (hpc : s.pc.toNat < s.cfg.flashWords)
    (hword : s.rawFlashWord s.pc = endLoopWord) : step s = .next s.enterInstr := by
  have hwords : encodeWords (.rjmp (-1)) = [endLoopWord] := by decide
  calc step s = exec (.rjmp (-1)) s.enterInstr := step_of_placedWord hwords rfl hwf hdue hpc hword
    _ = .next s.enterInstr := exec_rjmp_minusOne (s := s.enterInstr) (wrapPc_of_inside hwf hpc)

/-! ### A finished run -/

theorem atEndLoop_iff :
    s.atEndLoop = true ↔ s.pc.toNat < s.cfg.flashWords ∧ s.rawFlashWord s.pc = endLoopWord := by
  simp [State.atEndLoop, State.inFlash]

theorem noMoreRequests_iff : s.noMoreRequests = true ↔ ∀ req ∈ s.requests, s.sourcesOf req = [] := by
  simp [State.noMoreRequests]

theorem finished_iff :
    s.finished = true ↔ s.pc.toNat < s.cfg.flashWords ∧ s.rawFlashWord s.pc = endLoopWord ∧
      (s.cfg.irq = [] ∨ flagI s.sreg = false ∨ ∀ req ∈ s.requests, s.sourcesOf req = []) := by
  simp [State.finished, atEndLoop_iff, noMoreRequests_iff, and_assoc, or_assoc]

/-- The requests that remain after a boundary are among those before it, so a finished run stays finished (R304, R348). -/
theorem finished_enterInstr (h : s.finished = true) : s.enterInstr.finished = true := by
  obtain ⟨hpc, hword, hquiet⟩ := finished_iff.mp h
  exact finished_iff.mpr
    ⟨hpc, hword, hquiet.imp_right (Or.imp_right fun hreq req hmem => hreq req (List.mem_of_mem_tail hmem))⟩

theorem step_of_finished (hwf : s.cfg.wf = true) (h : s.finished = true) : step s = .next s.enterInstr := by
  obtain ⟨hpc, hword, -⟩ := finished_iff.mp h
  exact step_at_endLoopWord hwf (finished_dueInterrupt h) hpc hword

/-! ### The end state of a run -/

theorem run_succ_of_step {k : Nat} (h : step s = .next t) :
    Host.Core.run core (k + 1) s = Host.Core.run core k t := by
  have hstep : core.step s = .next t := h
  simp only [Host.Core.run, hstep]

/-- An end state is the state itself where it is finished, else one found behind a step that answers a next state (R348). -/
theorem endState_cases {n : Nat} (h : endState n s = some t) :
    (s.finished = true ∧ t = s) ∨
    (s.finished = false ∧ ∃ m u, n = m + 1 ∧ step s = .next u ∧ endState m u = some t) := by
  cases hs : s.finished with
  | true => cases n <;> exact .inl ⟨rfl, by simpa [endState, hs] using h.symm⟩
  | false =>
    refine .inr ⟨rfl, ?_⟩
    cases n with
    | zero => simp [endState, hs] at h
    | succ m =>
      cases hstep : step s with
      | next u => exact ⟨m, u, rfl, rfl, by simpa [endState, hs, hstep] using h⟩
      | fault r => simp [endState, hs, hstep] at h
      | refused r => simp [endState, hs, hstep] at h

/-- `t` is the first finished state of the run from `s`, and `k` steps reach it. -/
def FirstFinishedAfter (k : Nat) (s t : State) : Prop :=
  Host.Core.run core k s = .next t ∧ t.finished = true ∧
    ∀ j < k, ∀ u : State, Host.Core.run core j s = .next u → u.finished = false

theorem firstFinishedAfter_zero (h : s.finished = true) : FirstFinishedAfter 0 s s :=
  ⟨rfl, h, fun _ hj => absurd hj (Nat.not_lt_zero _)⟩

theorem FirstFinishedAfter.succ {k : Nat} {u : State} (hs : s.finished = false) (hstep : step s = .next u)
    (h : FirstFinishedAfter k u t) : FirstFinishedAfter (k + 1) s t := by
  obtain ⟨hrun, hfin, hbefore⟩ := h
  refine ⟨(run_succ_of_step hstep).trans hrun, hfin, fun j hj v hv => ?_⟩
  cases j with
  | zero =>
    obtain rfl : s = v := Host.Outcome.next.inj hv
    exact hs
  | succ j => exact hbefore j (Nat.lt_of_succ_lt_succ hj) v ((run_succ_of_step hstep).symm.trans hv)

/-- The end state found within `n` steps is the first finished state of the run (R348). -/
theorem firstFinishedAfter_of_endState {n : Nat} (h : endState n s = some t) : ∃ k ≤ n, FirstFinishedAfter k s t := by
  induction n generalizing s with
  | zero =>
    obtain ⟨hs, rfl⟩ | ⟨-, m, u, hm, -⟩ := endState_cases h
    · exact ⟨0, Nat.le_refl _, firstFinishedAfter_zero hs⟩
    · exact absurd hm (Nat.succ_ne_zero m).symm
  | succ n ih =>
    obtain ⟨hs, rfl⟩ | ⟨hs, m, u, hm, hstep, hend⟩ := endState_cases h
    · exact ⟨0, Nat.zero_le _, firstFinishedAfter_zero hs⟩
    · obtain rfl := Nat.succ.inj hm
      obtain ⟨k, hk, hfirst⟩ := ih hend
      exact ⟨k + 1, Nat.succ_le_succ hk, hfirst.succ hs hstep⟩

end

/-- Settles O59: the end loop jumps to itself, and the requests a finished run still meets are among those it no longer
answers. -/
theorem rjmpMinusOneIsAFixedPoint : Obligations.RjmpMinusOneIsAFixedPoint := by
  refine ⟨fun s hwf hdue hpc hword => step_at_endLoopWord hwf hdue hpc hword, fun s => finished_iff,
    fun s hwf hfin => ⟨s.enterInstr, step_of_finished hwf hfin, finished_enterInstr hfin, rfl⟩, fun n s t h => ?_⟩
  obtain ⟨k, hk, hrun, hfin, hbefore⟩ := firstFinishedAfter_of_endState h
  exact ⟨hfin, k, hk, hrun, hbefore⟩

end Sys2Proof.Machine
end
